-- ==== Sys2Proof/Word.lean ====
section
/-!
DEFINITION. The word types of the block. A byte is a bit vector, since the decoder shifts bits into it
(R186). A cell word (2*TW bits, R101) and the status word (2*NCH bits, R106) have widths that are
configuration parameters, so each is an unsigned number whose width is stated where it is checked (R15).
-/

namespace Sys2Proof

/-- Eight bits, bit 7 the most significant (R16). -/
abbrev Byte := BitVec 8

/-- An unsigned number read as a word of bits, bit 0 the least significant (R15, R16). -/
abbrev Word := Nat

end Sys2Proof
end

