-- ==== Sys2Proof/Config.lean ====
section
/-!
DEFINITION. The configuration parameters of R9, fixed before reset and written by nothing (R14), and the
model's free values: constants with no body, for what the spec leaves open.
-/

namespace Sys2Proof

/-- The parameters a model of the block takes as arguments (R9). `clt` lists the entries of the
CommandLengthTable that the integrator gives, in rising order of header byte; the two entries the spec fixes
(R33) are not among them, and an entry nobody gives is free (`Config.freeClt`). -/
structure Config where
  /-- `P`, the nominal bit period in ticks (R32). -/
  p : Nat
  /-- `TW`, the width of each tick field of a cell. -/
  tw : Nat
  /-- `NCH`, the number of channels. -/
  nch : Nat
  /-- `NCELL`, the capacity of one capture buffer, in cells. -/
  ncell : Nat
  /-- `NBYTE`, the capacity of the frame buffer, in bytes. -/
  nbyte : Nat
  /-- `GW`, the width of each gap counter. -/
  gw : Nat
  /-- `OW`, the width of each overrun counter. -/
  ow : Nat
  /-- `CLT`, the entries given beside `CLT[0x01]` and `CLT[0x09]`. -/
  clt : List (Nat × Byte)
  deriving DecidableEq, Repr

/-- The configuration of 95_test_vectors.md, used by `State.reset` and nowhere else
(DESIGN CHOICE, log entry 2: the spec leaves every parameter open; unsafe). -/
def Config.standard : Config :=
  { p := 8, tw := 8, nch := 2, ncell := 64, nbyte := 64, gw := 16, ow := 4
    clt := [(0x00, 0), (0x20, 0)] }

/-- FREE VALUE: the CommandLengthTable entry of header byte `h` that the configuration does not give
(R9, R33; log entry 3; safe). -/
opaque Config.freeClt : Nat → Byte

/-- FREE VALUE: the cell that a decoder read of channel `c`, index `i` returns when no cell was written there
since the channel's last re-arm or reset. The first argument is the channel's draw counter, the last the word
an earlier capture left there, if any (R71, R303; log entry 4; safe). -/
opaque Config.freeCell : Nat → Nat → Nat → Option Word → Word

/-- FREE VALUE: the frame-buffer byte at index `j` that nothing has written since reset; the first argument is
the frame buffer's draw counter (R53; log entry 5; safe). -/
opaque Config.freeByte : Nat → Nat → Byte

/-- FREE VALUE: the order `dispatchOrder` chooses where no turn of the agenda names it; the argument counts the
choices made so far (R227, R270; log entry 6; safe). -/
opaque Config.freeChoice : Nat → Nat

end Sys2Proof
end

