-- ==== Sys2Proof/Syntax.lean ====
section
/-!
DEFINITION. What the block reads and produces: the state enumerations (R110), the sink records (R120-R123), the
capture commands (R130), the formats (R100) and the one inductive of instructions, one constructor for each row
of the opcode table.
-/

namespace Sys2Proof

/-- The channel capture state `CHSTATE[c]` (R36). -/
inductive ChState where
  | armed
  | capturing
  | complete
  deriving DecidableEq, Repr

/-- The owner of a capture buffer, `OWNER[c]` (R37). -/
inductive Owner where
  | hw
  | sw
  deriving DecidableEq, Repr

/-- The dispatcher state `BSTATE` (R41). -/
inductive BState where
  | idle
  | select
  | decode
  | finish
  deriving DecidableEq, Repr

/-- The skip state `SKIPK` (R49). -/
inductive SkipKind where
  | pending
  | unresolved
  | resolved
  deriving DecidableEq, Repr

/-- Why a frame ended, `STOP` (R52); `none` while decoding continues. -/
inductive Stop where
  | none
  | sentinel
  | frameTooLong
  | noSentinel
  deriving DecidableEq, Repr

/-- The fields of a SUMMARY record (R122). -/
structure Summary where
  ch : Nat
  bytes : List Byte
  len : Nat
  anomValid : Bool
  anomalyIndex : Nat
  skipKind : SkipKind
  skipIndex : Nat
  turnaroundTaken : Bool
  stop : Stop
  nbits : Nat
  partialByte : Byte
  cells : Nat
  gap : Nat
  overruns : Nat
  deriving DecidableEq, Repr

/-- One record to the sink (R120). -/
inductive Record where
  /-- BYTE, tag 0 (R121). -/
  | byte (ch : Nat) (value : Byte)
  /-- SUMMARY, tag 1 (R122). -/
  | summary (r : Summary)
  /-- ERROR, tag 2 (R123). -/
  | error (ch : Nat)
  deriving DecidableEq, Repr

/-- The operation of a capture command (R130). -/
inductive CapOp where
  | disableCapture
  | resetAndRearm
  deriving DecidableEq, Repr

/-- One capture command, as it reaches channel `ch`'s capture source (R130). -/
structure Command where
  op : CapOp
  ch : Nat
  deriving DecidableEq, Repr

/-- The class of a cell word (R103). -/
inductive CellClass where
  | sentinel
  | data0
  | data1
  deriving DecidableEq, Repr

/-- The formats in which the opcode table's rows are written (R100, and the table's `format` column). -/
inductive Format where
  /-- A cell word of 2*TW bits, read for its class (R101, R103). -/
  | cellWord
  /-- A non-sentinel cell word, read for its anomaly attribute (R104). -/
  | cellAttribute
  /-- A non-sentinel cell word standing at the turnaround position (R105). -/
  | cellPosition
  /-- A header byte with its table entry (R108, R109). -/
  | headerByte
  /-- The index of a bit of the status word (R106, R112). -/
  | statusBit
  /-- A capture command (R130). -/
  | captureCommand
  /-- A sink record (R120). -/
  | sinkRecord
  /-- A capture-source input (R131). -/
  | captureInput
  /-- One of the block's own steps. -/
  | internalStep
  /-- The tick of the block clock (R238). -/
  | clockInput
  /-- The reset input (R300). -/
  | resetInput
  deriving DecidableEq, Repr

/-- The instructions: one constructor for each row of the opcode table, in the table's order. `l` and `h` are the
low and high ticks of a cell, `hb` a header byte, `c` and `ch` a channel, `b` the bit that `dispatchOrder` names. -/
inductive Instr where
  | cellSentinel (l : Nat)
  | cellData0 (l h : Nat)
  | cellData1 (l h : Nat)
  | cellAnomalous (l h : Nat)
  | cellInwindow (l h : Nat)
  | cellTurnaround (l h : Nat)
  | headerKnown (hb : Byte)
  | headerDynamic (hb : Byte)
  | header01
  | header09
  | evtCaptureComplete (c : Nat)
  | evtCaptureError (c : Nat)
  | cmdDisableCapture (c : Nat)
  | cmdResetAndRearm (c : Nat)
  | sinkByte (ch : Nat) (value : Byte)
  | sinkSummary (r : Summary)
  | sinkError (ch : Nat)
  | inFrameStart (c : Nat)
  | inFrameStartCapturing (c : Nat)
  | inFrameStartOverrun (c : Nat)
  | inCellWrite (c i : Nat) (v : Word)
  | inCaptureDone (c : Nat)
  | inCaptureError (c : Nat)
  | stepDispatchEntry
  | stepSelect (b : Nat)
  | stepDecode
  | stepDecodeDone
  | stepFinish
  | stepClockTick
  | stepReset
  deriving DecidableEq, Repr

/-- The format of an instruction's row in the opcode table. -/
def Instr.format : Instr → Format
  | .cellSentinel _ => .cellWord
  | .cellData0 _ _ => .cellWord
  | .cellData1 _ _ => .cellWord
  | .cellAnomalous _ _ => .cellAttribute
  | .cellInwindow _ _ => .cellAttribute
  | .cellTurnaround _ _ => .cellPosition
  | .headerKnown _ => .headerByte
  | .headerDynamic _ => .headerByte
  | .header01 => .headerByte
  | .header09 => .headerByte
  | .evtCaptureComplete _ => .statusBit
  | .evtCaptureError _ => .statusBit
  | .cmdDisableCapture _ => .captureCommand
  | .cmdResetAndRearm _ => .captureCommand
  | .sinkByte _ _ => .sinkRecord
  | .sinkSummary _ => .sinkRecord
  | .sinkError _ => .sinkRecord
  | .inFrameStart _ => .captureInput
  | .inFrameStartCapturing _ => .captureInput
  | .inFrameStartOverrun _ => .captureInput
  | .inCellWrite _ _ _ => .captureInput
  | .inCaptureDone _ => .captureInput
  | .inCaptureError _ => .captureInput
  | .stepDispatchEntry => .internalStep
  | .stepSelect _ => .internalStep
  | .stepDecode => .internalStep
  | .stepDecodeDone => .internalStep
  | .stepFinish => .internalStep
  | .stepClockTick => .clockInput
  | .stepReset => .resetInput

/-- The formats whose rows are whole atomic steps of some agent (R19): the capture sources' inputs, the block's own
steps, the clock and reset. The other rows name a part of such a step. -/
def Format.isMove : Format → Bool
  | .captureInput => true
  | .internalStep => true
  | .clockInput => true
  | .resetInput => true
  | .cellWord => false
  | .cellAttribute => false
  | .cellPosition => false
  | .headerByte => false
  | .statusBit => false
  | .captureCommand => false
  | .sinkRecord => false

/-- Why the decoder rejects a word. -/
inductive Reject where
  /-- The word has a bit above the format's last field. -/
  | wordTooWide
  /-- A sentinel where the format holds only non-sentinel cells (R104, R105). -/
  | sentinelCell
  /-- A record tag, step code or enumeration code that no rule produces (R113). -/
  | reservedCode
  /-- A channel number of NCH or more (R279). -/
  | noSuchChannel
  /-- A cell index of NCELL or more, or a byte count above NBYTE (R75). -/
  | indexOutOfRange
  deriving DecidableEq, Repr

end Sys2Proof
end

