-- ==== Sys2Proof/Machine/Operands.lean ====
section
/-!
DEFINITION. Operand forms: the derived widths (R11), the fields and classes of a cell word (R101-R105, R140-R149),
the table entry of a header byte (R33, R108, R177), the bits of the status word (R106, R112), and the shift that
assembles a byte (R111, R186). Nothing here reads the state.
-/

namespace Sys2Proof

/-! ## Derived widths (R11) -/

/-- `bitlen(n)`, the number of bits needed to hold `n`; `bitlen(0) = 1` (R11). -/
def bitlen (n : Nat) : Nat := n.log2 + 1

namespace Config

/-- `IW`, the cell-index width (R11). -/
def iw (cfg : Config) : Nat := max 11 (bitlen cfg.ncell)

/-- `NW`, the data-bit count width (R11). -/
def nw (cfg : Config) : Nat := bitlen (8 * cfg.nbyte)

/-- `LW`, the byte count width (R11). -/
def lw (cfg : Config) : Nat := bitlen cfg.nbyte

/-- `CW`, the channel-number width (R11). -/
def cw (cfg : Config) : Nat := max 1 (bitlen (cfg.nch - 1))

end Config

/-! ## The cell word (R101-R105, R140-R146) -/

/-- `lowTicks = word[TW-1:0]` (R101, R102, R140). -/
def cellLow (cfg : Config) (w : Word) : Nat := w % 2 ^ cfg.tw

/-- `highTicks = word[2*TW-1:TW]` (R101, R102, R140). -/
def cellHigh (cfg : Config) (w : Word) : Nat := w / 2 ^ cfg.tw % 2 ^ cfg.tw

/-- `word = highTicks ++ lowTicks` (R101). -/
def cellWord (cfg : Config) (l h : Nat) : Word := l + 2 ^ cfg.tw * h

/-- `isSentinel`: the high half-period is zero; the low one is ignored (R141). -/
def isSentinel (h : Nat) : Bool := h == 0

/-- `bitOf`: one exactly when the high half-period exceeds half the bit period (R142). -/
def bitOf (cfg : Config) (h : Nat) : Bool := decide (2 * h > cfg.p)

/-- `dur`, the duration of a cell, in a width that never wraps (R145). -/
def dur (l h : Nat) : Nat := l + h

/-- `isAnomalous`: the duration is outside `[P-1, P+1]` (R104, R146). -/
def isAnomalous (cfg : Config) (l h : Nat) : Bool :=
  decide (dur l h < cfg.p - 1) || decide (dur l h > cfg.p + 1)

/-- The class of a cell, selected by its high half-period alone (R103, R141, R143, R144). -/
def cellClass (cfg : Config) (h : Nat) : CellClass :=
  if h = 0 then .sentinel else if h ≤ cfg.p / 2 then .data0 else .data1

/-! ## The header byte and the CommandLengthTable (R33, R108, R109, R177) -/

/-- The entry the configuration gives for header byte `h`, if any. -/
def givenEntry (clt : List (Nat × Byte)) (h : Nat) : Option Byte :=
  match clt with
  | [] => none
  | (a, k) :: rest => if a = h then some k else givenEntry rest h

/-- `TableRead(h)` (R73): the two entries the spec fixes, `CLT[0x01] = 1` and `CLT[0x09] = 3` (R33), the
entries the configuration gives, and a free value for an entry nobody gives. -/
def tableRead (cfg : Config) (h : Byte) : Byte :=
  if h = 0x01 then 1
  else if h = 0x09 then 3
  else (givenEntry cfg.clt h.toNat).getD (Config.freeClt h.toNat)

/-- The turnaround index a non-zero table entry gives, `zext(k) << 3` (R111(c), R177). -/
def tableSkipIndex (k : Byte) : Nat := 8 * k.toNat

/-! ## The status word (R106, R107, R112) -/

/-- The index of `CC[c]` in the status word (R106). -/
def ccBit (c : Nat) : Nat := 2 * c

/-- The index of `ERR[c]` in the status word (R106). -/
def errBit (c : Nat) : Nat := 2 * c + 1

/-- The channel of status bit `b` (R112). -/
def bitChannel (b : Nat) : Nat := b / 2

/-- Status bit `b` is a capture-error event, not a capture-complete one (R112). -/
def bitIsError (b : Nat) : Bool := b % 2 == 1

/-- The word with bit `b` set. -/
def setBit (w : Word) (b : Nat) : Word := w ||| 2 ^ b

/-- The word with bit `b` cleared. -/
def clearBit (w : Word) (b : Nat) : Word := w ^^^ (w &&& 2 ^ b)

/-- The set bit of `w`, among its low `n` bits, that `dispatchOrder` chooses when it names `b`: bit `b` itself where
it is set, else the next set bit above it, cyclically. Every set bit is the choice of some `b`, so every order is
admitted (R227, R270); `none` when no bit is set. -/
def pickBit (w : Word) (b n : Nat) : Option Nat :=
  ((List.range n).map (fun k => (b + k) % n)).find? (fun j => w.testBit j)

/-! ## Byte assembly (R77, R111(e), R186) -/

/-- `ACC[6:0] ++ bit` (R186). -/
def shiftIn (acc : Byte) (bit : Bool) : Byte := acc.extractLsb' 0 7 ++ BitVec.ofBool bit

end Sys2Proof
end

