-- ==== Sys2Proof/WellFormed.lean ====
section
/-!
DEFINITION. When a configuration is one the spec allows (R9), and when an instruction is one that its row of the
opcode table describes: fields within their widths, channels and indexes that exist, the class, attribute or table
entry that selects the row.
-/

namespace Sys2Proof

/-- The constraints of R9. The given table entries stand in rising order of header byte, and are not the two entries
that the spec fixes (R33). -/
def Config.wf (cfg : Config) : Bool :=
  decide (2 ≤ cfg.tw) && decide (2 ≤ cfg.p) && decide (cfg.p ≤ 2 ^ cfg.tw) && decide (1 ≤ cfg.nch)
    && decide (1 ≤ cfg.ncell) && decide (1 ≤ cfg.nbyte) && decide (1 ≤ cfg.gw) && decide (1 ≤ cfg.ow)
    && decide (cfg.clt.Pairwise (fun a b => a.1 < b.1))
    && cfg.clt.all (fun e => decide (e.1 < 256) && decide (e.1 ≠ 0x01) && decide (e.1 ≠ 0x09))

/-- What the meaning of a word depends on beside its bits: the configuration, which selects cell classes and header
rules (R103, R109), and the channels' capture states, which select the frame-start row (R221, R222, R240). -/
structure DecodeContext where
  cfg : Config
  chstates : List ChState
  deriving DecidableEq, Repr

/-- The context belongs to a machine: its configuration is allowed and it has one capture state per channel. -/
def DecodeContext.wf (ctx : DecodeContext) : Bool :=
  ctx.cfg.wf && decide (ctx.chstates.length = ctx.cfg.nch)

/-- A cell's two fields fit their widths (R101). -/
def cellFits (cfg : Config) (l h : Nat) : Bool := decide (l < 2 ^ cfg.tw) && decide (h < 2 ^ cfg.tw)

/-- The fields of a SUMMARY record fit their widths, and it carries `len` bytes (R122). -/
def Summary.wf (cfg : Config) (r : Summary) : Bool :=
  decide (r.ch < cfg.nch) && decide (r.bytes.length = r.len) && decide (r.len ≤ cfg.nbyte)
    && decide (r.anomalyIndex < 2 ^ cfg.iw) && decide (r.skipIndex < 2 ^ cfg.iw)
    && decide (r.nbits < 2 ^ cfg.nw) && decide (r.cells < 2 ^ cfg.iw)
    && decide (r.gap < 2 ^ cfg.gw) && decide (r.overruns < 2 ^ cfg.ow)

/-- The instruction is one that its row of the opcode table describes. -/
def wellFormed (ctx : DecodeContext) : Instr → Bool
  | .cellSentinel l => cellFits ctx.cfg l 0
  | .cellData0 l h => cellFits ctx.cfg l h && cellClass ctx.cfg h == .data0
  | .cellData1 l h => cellFits ctx.cfg l h && cellClass ctx.cfg h == .data1
  | .cellAnomalous l h => cellFits ctx.cfg l h && !isSentinel h && isAnomalous ctx.cfg l h
  | .cellInwindow l h => cellFits ctx.cfg l h && !isSentinel h && !isAnomalous ctx.cfg l h
  | .cellTurnaround l h => cellFits ctx.cfg l h && !isSentinel h
  | .headerKnown hb => decide (hb ≠ 0x01) && decide (hb ≠ 0x09) && decide (tableRead ctx.cfg hb ≠ 0)
  | .headerDynamic hb => decide (tableRead ctx.cfg hb = 0)
  | .header01 => true
  | .header09 => true
  | .evtCaptureComplete c => decide (c < ctx.cfg.nch)
  | .evtCaptureError c => decide (c < ctx.cfg.nch)
  | .cmdDisableCapture c => decide (c < ctx.cfg.nch)
  | .cmdResetAndRearm c => decide (c < ctx.cfg.nch)
  | .sinkByte ch _ => decide (ch < ctx.cfg.nch)
  | .sinkSummary r => r.wf ctx.cfg
  | .sinkError ch => decide (ch < ctx.cfg.nch)
  | .inFrameStart c => decide (c < ctx.cfg.nch) && decide (ctx.chstates[c]? = some .armed)
  | .inFrameStartCapturing c => decide (c < ctx.cfg.nch) && decide (ctx.chstates[c]? = some .capturing)
  | .inFrameStartOverrun c => decide (c < ctx.cfg.nch) && decide (ctx.chstates[c]? = some .complete)
  | .inCellWrite c i v =>
      decide (c < ctx.cfg.nch) && decide (i < ctx.cfg.ncell) && decide (v < 2 ^ (2 * ctx.cfg.tw))
  | .inCaptureDone c => decide (c < ctx.cfg.nch)
  | .inCaptureError c => decide (c < ctx.cfg.nch)
  | .stepDispatchEntry => true
  | .stepSelect b => decide (b < 2 * ctx.cfg.nch)
  | .stepDecode => true
  | .stepDecodeDone => true
  | .stepFinish => true
  | .stepClockTick => true
  | .stepReset => true

end Sys2Proof
end

