-- ==== Sys2Proof/Decode.lean ====
section
/-!
DEFINITION. The decoder, from a format and a word to an instruction or a named rejection, and after it the encoder,
from the same tables of 30_encoding.md. The spec gives the bits of the cell word (R101), the header byte (R109), the
status bit (R112), the enumeration, record-tag, command and input codes (R110, R120, R130, R131) and the widths of the
fields (R11); it leaves the packing of commands, records, inputs and steps abstract (R100), and the model packs their
fields in the order the spec lists them, the first in the least significant bits (DESIGN CHOICE, log entry 7; safe).
-/

namespace Sys2Proof

/-! ## Enumeration codes (R110) -/

/-- The code of a channel capture state (R110). -/
def ChState.code : ChState → Nat
  | .armed => 0
  | .capturing => 1
  | .complete => 2

/-- The code of an owner (R110). -/
def Owner.code : Owner → Nat
  | .hw => 0
  | .sw => 1

/-- The code of a dispatcher state (R110). -/
def BState.code : BState → Nat
  | .idle => 0
  | .select => 1
  | .decode => 2
  | .finish => 3

/-- The code of a skip state (R110). -/
def SkipKind.code : SkipKind → Nat
  | .pending => 0
  | .unresolved => 1
  | .resolved => 2

/-- The skip state of a code; 3 is unused (R110, R113). -/
def SkipKind.ofCode : Nat → Option SkipKind
  | 0 => some .pending
  | 1 => some .unresolved
  | 2 => some .resolved
  | _ => none

/-- The code of a stop reason (R110). -/
def Stop.code : Stop → Nat
  | .none => 0
  | .sentinel => 1
  | .frameTooLong => 2
  | .noSentinel => 3

/-- The stop reason of a code; every 2-bit code is one (R110). -/
def Stop.ofCode : Nat → Option Stop
  | 0 => some .none
  | 1 => some .sentinel
  | 2 => some .frameTooLong
  | 3 => some .noSentinel
  | _ => Option.none

/-- The op code of a capture command (R130). -/
def CapOp.code : CapOp → Nat
  | .disableCapture => 0
  | .resetAndRearm => 1

/-- The tag of a record (R120). -/
def Record.tag : Record → Nat
  | .byte _ _ => 0
  | .summary _ => 1
  | .error _ => 2

/-! ## Packing fields into a word -/

/-- The word whose fields, from the least significant bit up, are the (width, value) pairs given, and whose
remaining bits are `top`. -/
def packFields : List (Nat × Nat) → Nat → Word
  | [], top => top
  | (n, v) :: fs, top => v + 2 ^ n * packFields fs top

/-- The values of the fields of the given widths, from the least significant bit up, and then the remaining bits. -/
def unpackFields : List Nat → Word → List Nat
  | [], w => [w]
  | n :: ns, w => w % 2 ^ n :: unpackFields ns (w / 2 ^ n)

/-- The bytes of a word, the first in the least significant bits. -/
def packBytes : List Byte → Word
  | [] => 0
  | b :: bs => b.toNat + 2 ^ 8 * packBytes bs

/-- The `n` bytes of a word that has no further bits. -/
def unpackBytes : Nat → Word → Option (List Byte)
  | 0, w => if w = 0 then some [] else none
  | n + 1, w => (unpackBytes n (w / 2 ^ 8)).map (BitVec.ofNat 8 w :: ·)

/-- A one-bit flag as a number. -/
def flagBit (b : Bool) : Nat := if b then 1 else 0

/-- The widths of a SUMMARY record's fields after its tag, in the order of R122, the bytes last. -/
def summaryWidths (cfg : Config) : List Nat :=
  [cfg.cw, cfg.lw, 1, cfg.iw, 2, cfg.iw, 1, 2, cfg.nw, 8, cfg.iw, cfg.gw, cfg.ow]

/-! ## The decoder, one function a format -/

/-- A cell word by its class (R103): every word of 2*TW bits is an instruction (R113). -/
def decodeCell (cfg : Config) (w : Word) : Except Reject Instr :=
  if w ≥ 2 ^ (2 * cfg.tw) then .error .wordTooWide
  else
    match cellClass cfg (cellHigh cfg w) with
    | .sentinel => .ok (.cellSentinel (cellLow cfg w))
    | .data0 => .ok (.cellData0 (cellLow cfg w) (cellHigh cfg w))
    | .data1 => .ok (.cellData1 (cellLow cfg w) (cellHigh cfg w))

/-- A non-sentinel cell word by its anomaly attribute (R104). -/
def decodeAttribute (cfg : Config) (w : Word) : Except Reject Instr :=
  if w ≥ 2 ^ (2 * cfg.tw) then .error .wordTooWide
  else if isSentinel (cellHigh cfg w) then .error .sentinelCell
  else if isAnomalous cfg (cellLow cfg w) (cellHigh cfg w) then
    .ok (.cellAnomalous (cellLow cfg w) (cellHigh cfg w))
  else .ok (.cellInwindow (cellLow cfg w) (cellHigh cfg w))

/-- The cell at the turnaround position: any non-sentinel word (R105). -/
def decodePosition (cfg : Config) (w : Word) : Except Reject Instr :=
  if w ≥ 2 ^ (2 * cfg.tw) then .error .wordTooWide
  else if isSentinel (cellHigh cfg w) then .error .sentinelCell
  else .ok (.cellTurnaround (cellLow cfg w) (cellHigh cfg w))

/-- A header byte: the two bytes with a row of their own, else by its table entry (R109, R177). -/
def decodeHeader (cfg : Config) (w : Word) : Except Reject Instr :=
  if w ≥ 2 ^ 8 then .error .wordTooWide
  else if w = 0x01 then .ok .header01
  else if w = 0x09 then .ok .header09
  else if tableRead cfg (BitVec.ofNat 8 w) = 0 then .ok (.headerDynamic (BitVec.ofNat 8 w))
  else .ok (.headerKnown (BitVec.ofNat 8 w))

/-- The index of a status bit (R112). -/
def decodeStatusBit (cfg : Config) (b : Word) : Except Reject Instr :=
  if b ≥ 2 * cfg.nch then .error .noSuchChannel
  else if bitIsError b then .ok (.evtCaptureError (bitChannel b))
  else .ok (.evtCaptureComplete (bitChannel b))

/-- A capture command: op (1 bit), channel (R130). -/
def decodeCommand (cfg : Config) (w : Word) : Except Reject Instr :=
  match unpackFields [1, cfg.cw] w with
  | [op, c, top] =>
    if top ≠ 0 then .error .wordTooWide
    else if c ≥ cfg.nch then .error .noSuchChannel
    else if op = 0 then .ok (.cmdDisableCapture c)
    else .ok (.cmdResetAndRearm c)
  | _ => .error .wordTooWide

/-- The fields of a SUMMARY record after its tag (R122). -/
def decodeSummary (cfg : Config) (w : Word) : Except Reject Instr :=
  match unpackFields (summaryWidths cfg) w with
  | [ch, len, anomValid, anomalyIndex, skipKind, skipIndex, taken, stop, nbits, partialByte, cells, gap,
      overruns, top] =>
    if ch ≥ cfg.nch then .error .noSuchChannel
    else if len > cfg.nbyte then .error .indexOutOfRange
    else
      match SkipKind.ofCode skipKind, Stop.ofCode stop, unpackBytes len top with
      | some kind, some why, some bytes =>
        .ok (.sinkSummary
          { ch := ch, bytes := bytes, len := len, anomValid := anomValid == 1, anomalyIndex := anomalyIndex
            skipKind := kind, skipIndex := skipIndex, turnaroundTaken := taken == 1, stop := why
            nbits := nbits, partialByte := BitVec.ofNat 8 partialByte, cells := cells, gap := gap
            overruns := overruns })
      | some _, some _, none => .error .wordTooWide
      | _, _, _ => .error .reservedCode
  | _ => .error .wordTooWide

/-- A sink record: tag (2 bits), then the record's fields (R120-R123). -/
def decodeRecord (cfg : Config) (w : Word) : Except Reject Instr :=
  match w % 2 ^ 2 with
  | 0 =>
    match unpackFields [cfg.cw, 8] (w / 2 ^ 2) with
    | [ch, value, top] =>
      if top ≠ 0 then .error .wordTooWide
      else if ch ≥ cfg.nch then .error .noSuchChannel
      else .ok (.sinkByte ch (BitVec.ofNat 8 value))
    | _ => .error .wordTooWide
  | 1 => decodeSummary cfg (w / 2 ^ 2)
  | 2 =>
    match unpackFields [cfg.cw] (w / 2 ^ 2) with
    | [ch, top] =>
      if top ≠ 0 then .error .wordTooWide
      else if ch ≥ cfg.nch then .error .noSuchChannel
      else .ok (.sinkError ch)
    | _ => .error .wordTooWide
  | _ => .error .reservedCode

/-- The row of `frameStart c`: the channel's capture state selects it (R221, R222, R240). -/
def frameStartRow (c : Nat) : ChState → Instr
  | .armed => .inFrameStart c
  | .capturing => .inFrameStartCapturing c
  | .complete => .inFrameStartOverrun c

/-- A capture-source input: kind (2 bits), channel, and for a cell write the index and the cell word (R131). -/
def decodeInput (ctx : DecodeContext) (w : Word) : Except Reject Instr :=
  match unpackFields [2, ctx.cfg.cw] w with
  | [kind, c, rest] =>
    match ctx.chstates[c]? with
    | none => .error .noSuchChannel
    | some st =>
      if c ≥ ctx.cfg.nch then .error .noSuchChannel
      else if kind = 1 then
        match unpackFields [ctx.cfg.iw, 2 * ctx.cfg.tw] rest with
        | [i, v, top] =>
          if top ≠ 0 then .error .wordTooWide
          else if i ≥ ctx.cfg.ncell then .error .indexOutOfRange
          else .ok (.inCellWrite c i v)
        | _ => .error .wordTooWide
      else if rest ≠ 0 then .error .wordTooWide
      else if kind = 0 then .ok (frameStartRow c st)
      else if kind = 2 then .ok (.inCaptureDone c)
      else .ok (.inCaptureError c)
  | _ => .error .wordTooWide

/-- One of the block's own steps: a step code (3 bits), and for a select step the bit that `dispatchOrder` names. The
codes are the model's (DESIGN CHOICE, log entry 7; safe). -/
def decodeStep (cfg : Config) (w : Word) : Except Reject Instr :=
  match w % 2 ^ 3 with
  | 0 => if w / 2 ^ 3 = 0 then .ok .stepDispatchEntry else .error .wordTooWide
  | 1 => if w / 2 ^ 3 < 2 * cfg.nch then .ok (.stepSelect (w / 2 ^ 3)) else .error .noSuchChannel
  | 2 => if w / 2 ^ 3 = 0 then .ok .stepDecode else .error .wordTooWide
  | 3 => if w / 2 ^ 3 = 0 then .ok .stepDecodeDone else .error .wordTooWide
  | 4 => if w / 2 ^ 3 = 0 then .ok .stepFinish else .error .wordTooWide
  | _ => .error .reservedCode

/-- The decoder: total on every word of every format, each rejection named. -/
def decode (ctx : DecodeContext) : Format → Word → Except Reject Instr
  | .cellWord, w => decodeCell ctx.cfg w
  | .cellAttribute, w => decodeAttribute ctx.cfg w
  | .cellPosition, w => decodePosition ctx.cfg w
  | .headerByte, w => decodeHeader ctx.cfg w
  | .statusBit, w => decodeStatusBit ctx.cfg w
  | .captureCommand, w => decodeCommand ctx.cfg w
  | .sinkRecord, w => decodeRecord ctx.cfg w
  | .captureInput, w => decodeInput ctx w
  | .internalStep, w => decodeStep ctx.cfg w
  | .clockInput, w => if w = 0 then .ok .stepClockTick else .error .wordTooWide
  | .resetInput, w => if w = 0 then .ok .stepReset else .error .wordTooWide

/-! ## The encoder -/

/-- The word of a SUMMARY record (R120, R122). -/
def encodeSummary (cfg : Config) (r : Summary) : Word :=
  packFields
    [(2, 1), (cfg.cw, r.ch), (cfg.lw, r.len), (1, flagBit r.anomValid), (cfg.iw, r.anomalyIndex),
      (2, r.skipKind.code), (cfg.iw, r.skipIndex), (1, flagBit r.turnaroundTaken), (2, r.stop.code),
      (cfg.nw, r.nbits), (8, r.partialByte.toNat), (cfg.iw, r.cells), (cfg.gw, r.gap), (cfg.ow, r.overruns)]
    (packBytes r.bytes)

/-- The word of a well-formed instruction, in the format of its row. -/
def encode (cfg : Config) : Instr → Word
  | .cellSentinel l => cellWord cfg l 0
  | .cellData0 l h => cellWord cfg l h
  | .cellData1 l h => cellWord cfg l h
  | .cellAnomalous l h => cellWord cfg l h
  | .cellInwindow l h => cellWord cfg l h
  | .cellTurnaround l h => cellWord cfg l h
  | .headerKnown hb => hb.toNat
  | .headerDynamic hb => hb.toNat
  | .header01 => 0x01
  | .header09 => 0x09
  | .evtCaptureComplete c => ccBit c
  | .evtCaptureError c => errBit c
  | .cmdDisableCapture c => packFields [(1, CapOp.disableCapture.code), (cfg.cw, c)] 0
  | .cmdResetAndRearm c => packFields [(1, CapOp.resetAndRearm.code), (cfg.cw, c)] 0
  | .sinkByte ch value => packFields [(2, 0), (cfg.cw, ch), (8, value.toNat)] 0
  | .sinkSummary r => encodeSummary cfg r
  | .sinkError ch => packFields [(2, 2), (cfg.cw, ch)] 0
  | .inFrameStart c => packFields [(2, 0), (cfg.cw, c)] 0
  | .inFrameStartCapturing c => packFields [(2, 0), (cfg.cw, c)] 0
  | .inFrameStartOverrun c => packFields [(2, 0), (cfg.cw, c)] 0
  | .inCellWrite c i v => packFields [(2, 1), (cfg.cw, c), (cfg.iw, i), (2 * cfg.tw, v)] 0
  | .inCaptureDone c => packFields [(2, 2), (cfg.cw, c)] 0
  | .inCaptureError c => packFields [(2, 3), (cfg.cw, c)] 0
  | .stepDispatchEntry => packFields [(3, 0)] 0
  | .stepSelect b => packFields [(3, 1)] b
  | .stepDecode => packFields [(3, 2)] 0
  | .stepDecodeDone => packFields [(3, 3)] 0
  | .stepFinish => packFields [(3, 4)] 0
  | .stepClockTick => 0
  | .stepReset => 0

/-! ## The opcode table's own numbering -/

/-- The instruction the decoder reads from the bits of a table row: the table writes bits for header bytes (8 bits)
and, at TW = 8, for cell words (16 bits), and for no other format. The configuration is the one of reset (log
entry 2), whose channels are all ARMED. -/
def decodeTableWord (nbits w : Nat) : Option Instr :=
  let ctx : DecodeContext :=
    { cfg := Config.standard, chstates := List.replicate Config.standard.nch .armed }
  match nbits with
  | 8 => (decode ctx .headerByte w).toOption
  | 16 => (decode ctx .cellWord w).toOption
  | _ => none

end Sys2Proof
end

