-- ==== Sys2Proof/Machine/State.lean ====
section
/-!
DEFINITION. The state of the block as plain data: the five groups of R30 (configuration, per-channel state, dispatcher
state, decoder datapath, frame buffer), and four things that are the model's own: what the sink and the capture sources
have been sent, the agenda that says which agent moves next, and the counters that index the free values. INVENTORY.md
lists every field with its rule and its reset value.
-/

namespace Sys2Proof.Machine

/-- A sparse store: (index, element) pairs. Canonical when the indexes strictly rise (`Memory.wf`); an index that is not
listed was never written since reset, so it holds no value of its own. -/
abbrev Memory (α : Type) := List (Nat × α)

/-- One element of a capture buffer: the cell word last written there, and whether that write came after the channel's
last re-arm (R71, R237, R303; log entry 4). -/
structure CbEntry where
  word : Word
  fresh : Bool
  deriving DecidableEq, Repr

/-- The state of one channel (R34-R40, R279; its two status bits stand in `State.status`). -/
structure Channel where
  /-- `ERRSUP[c]`, the error-suppression latch (R35). -/
  errsup : Bool
  /-- `CHSTATE[c]` (R36). -/
  chstate : ChState
  /-- `OWNER[c]` (R37). -/
  owner : Owner
  /-- `GAP[c]`, GW bits (R38). -/
  gap : Nat
  /-- `OVR[c]`, OW bits, saturating (R39). -/
  ovr : Nat
  /-- `CB[c]`, the capture buffer (R40). -/
  cb : Memory CbEntry
  /-- The capture source's write position in `CB[c]`, the index of the next cell it writes (R130, R223, R237; log
  entry 14). -/
  wpos : Nat
  /-- The capture source has taken DISABLE_CAPTURE and has not been re-armed since (R130; log entry 8). -/
  stopped : Bool
  /-- The model's own: how often the buffer's unwritten cells became unspecified anew (log entry 4). -/
  draw : Nat
  deriving DecidableEq, Repr

/-- The decoder datapath (R45-R52). Index and count registers are numbers; R11's widths hold of them by
`State.DecoderFits` and R12 says none wraps. -/
structure Decoder where
  /-- `CUR`, the cell cursor, IW bits (R45). -/
  cur : Nat
  /-- `NB`, the data-bit count, NW bits (R46). -/
  nb : Nat
  /-- `ACC`, the byte being assembled (R47). -/
  acc : Byte
  /-- `LEN`, the completed bytes, LW bits (R48). -/
  len : Nat
  /-- `SKIPK` (R49). -/
  skipk : SkipKind
  /-- `SKIPIDX`, IW bits (R49). -/
  skipidx : Nat
  /-- `ANOMV` (R50). -/
  anomv : Bool
  /-- `ANOMIDX`, IW bits (R50). -/
  anomidx : Nat
  /-- `TATAKEN` (R51). -/
  tataken : Bool
  /-- `STOP` (R52). -/
  stop : Stop
  deriving DecidableEq, Repr

/-- One turn of the agenda: which agent takes the next atomic step (R5, R19; log entry 9). -/
inductive Turn where
  /-- The block takes the step its state enables; `choice` is the bit that `dispatchOrder` names if it is a select
  step (R227). -/
  | pwd (choice : Nat)
  /-- The instruction of this word is executed: an input of a capture source, a clock tick, reset, or (for the rows
  that are parts of a step) that part alone. -/
  | packet (fmt : Format) (word : Word)
  deriving DecidableEq, Repr

/-- The state of the machine. -/
structure State where
  /-- The configuration, written by nothing (R14, R30 group 1). -/
  cfg : Config
  /-- The per-channel state, channel `c` at position `c` (R30 group 2, R279). -/
  channels : List Channel
  /-- `STATUS`, the aggregated status word, 2*NCH bits (R34, R106). -/
  status : Word
  /-- `BSTATE` (R41). -/
  bstate : BState
  /-- `WORK`, the snapshot of `STATUS`, 2*NCH bits (R42). -/
  work : Word
  /-- `DCH`, CW bits (R43). -/
  dch : Nat
  /-- `GAPREC`, GW bits (R44). -/
  gaprec : Nat
  /-- The decoder datapath (R30 group 4). -/
  dec : Decoder
  /-- `FB`, the frame buffer (R53). -/
  fb : Memory Byte
  /-- The model's own: how often the frame buffer became unspecified anew (log entry 5). -/
  fbDraw : Nat
  /-- What the sink has received, oldest first (R125; log entry 10). -/
  sink : List Record
  /-- What the capture sources have been commanded, oldest first (R130; log entry 10). -/
  commands : List Command
  /-- The turns still to come, next first (log entry 9). -/
  agenda : List Turn
  /-- The model's own: how many free dispatch choices have been drawn (log entry 6). -/
  choices : Nat
  deriving DecidableEq, Repr

/-- The one fault: a step names a channel of NCH or more, which does not exist (R279). Raised by a meaning that takes a
channel number, or by the block's own steps when `DCH` is out of range; both only in states or on operands outside the
spec. Safe: the machine stops where the spec gives it nothing. No condition of the block itself is a fault (R260). -/
inductive Fault where
  | noSuchChannel (c : Nat)
  deriving DecidableEq, Repr

/-- Why the model refuses a step. -/
inductive Refusal where
  /-- An arm of `exec` that has no meaning yet. Safe. -/
  | notModelled (mnemonic : String)
  /-- The row's own select condition does not hold, so the block has no such step in this state. Raised by the meanings
  of rows with a select condition. Safe: nothing is executed (log entry 11). -/
  | notSelected
  /-- A capture-source step that breaks a duty of R86, or a cell write out of index order: the model has no such step
  (R86, R223, R224, R306, D29). Raised by the meanings of IN_CELL_WRITE and IN_CAPTURE_DONE. Safe. -/
  | captureDuty
  /-- The word of a turn decodes to no instruction; the reason is the decoder's. Raised by the step. Safe. -/
  | undecodable (why : Reject)
  deriving DecidableEq, Repr

/-- What executing an instruction answers. -/
abbrev Result := Host.Outcome State Fault Refusal

/-- A channel after reset (R35-R40), its capture source ready to write from index 0 (R304). -/
def Channel.reset : Channel :=
  { errsup := false, chstate := .armed, owner := .hw, gap := 0, ovr := 0, cb := [], wpos := 0
    stopped := false, draw := 0 }

/-- The decoder registers at the start of a frame (R171), which are their reset values too (R45-R52). -/
def Decoder.start : Decoder :=
  { cur := 0, nb := 0, acc := 0, len := 0, skipk := .pending, skipidx := 0, anomv := false, anomidx := 0
    tataken := false, stop := .none }

/-- The machine of a configuration right after reset, with nothing received, nothing sent and an empty agenda (R301). -/
def State.resetWith (cfg : Config) : State :=
  { cfg := cfg
    channels := List.replicate cfg.nch Channel.reset
    status := 0
    bstate := .idle
    work := 0
    dch := 0
    gaprec := 0
    dec := Decoder.start
    fb := []
    fbDraw := 0
    sink := []
    commands := []
    agenda := []
    choices := 0 }

/-- The machine right after reset (R301, R302). The configuration is the test configuration of 95_test_vectors.md
(DESIGN CHOICE, log entry 2; unsafe). -/
def State.reset : State := State.resetWith Config.standard

end Sys2Proof.Machine
end

