-- ==== Sys2Proof/Machine/Ops.lean ====
section
/-!
DEFINITION. The named operations over the stores and registers that the meanings share: the three indexed stores (R70),
the two ports (R125, R130), starting and ending a dispatch invocation (the block's counterpart of taking an exception and
returning from it, R226, R227, R272, R273), starting and ending a frame (R171, R189), and the sub-steps S3 to S8 of a
decoder step (R172).
-/

namespace Sys2Proof.Machine

/-! ## Stores in canonical form -/

/-- The element last written at index `a`, if any. -/
def Memory.read {α : Type} : Memory α → Nat → Option α
  | [], _ => none
  | (b, v) :: m, a => if a = b then some v else Memory.read m a

/-- The store with `v` at index `a`, in rising order of index. -/
def Memory.write {α : Type} : Memory α → Nat → α → Memory α
  | [], a, v => [(a, v)]
  | (b, u) :: m, a, v =>
    if a < b then (a, v) :: (b, u) :: m
    else if a = b then (a, v) :: m
    else (b, u) :: Memory.write m a v

/-- The canonical form: indexes strictly rise. -/
abbrev Memory.wf {α : Type} (m : Memory α) : Prop := m.Pairwise (fun a b => a.1 < b.1)

/-! ## Channels (R279) -/

/-- Channel `c`, if it exists. -/
def State.chan? (s : State) (c : Nat) : Option Channel := s.channels[c]?

/-- The state with channel `c` replaced by its image. -/
def State.modifyChan (s : State) (c : Nat) (f : Channel → Channel) : State :=
  { s with channels := s.channels.modify c f }

/-- Continue with channel `c`, or fault where it does not exist. -/
def withChan (c : Nat) (s : State) (k : Channel → Result) : Result :=
  match s.chan? c with
  | some ch => k ch
  | none => .fault (.noSuchChannel c)

/-- What the decoder needs beside the bits of a word (R103, R109, R131). -/
def State.context (s : State) : DecodeContext :=
  { cfg := s.cfg, chstates := s.channels.map (·.chstate) }

/-! ## The three indexed stores (R70-R73) -/

/-- The cell word at index `i` of a channel's buffer: the word written there since the last re-arm, else a free value of
2*TW bits (R71, R303; log entry 4). -/
def cbRead (cfg : Config) (ch : Channel) (c i : Nat) : Word :=
  match ch.cb.read i with
  | some e =>
    if e.fresh then e.word else Config.freeCell ch.draw c i (some e.word) % 2 ^ (2 * cfg.tw)
  | none => Config.freeCell ch.draw c i none % 2 ^ (2 * cfg.tw)

/-- `CellRead(c, i)` (R71): one whole cell of channel `c`'s capture buffer. Of a channel that does not exist it is a free
value; no meaning reads one. -/
def cellRead (s : State) (c i : Nat) : Word :=
  match s.chan? c with
  | some ch => cbRead s.cfg ch c i
  | none => Config.freeCell 0 c i none % 2 ^ (2 * s.cfg.tw)

/-- The capture source may write index `i` of its channel's buffer: it owns the buffer, is capturing, has not been
disabled, and `i` is the next index in order, within the buffer (R86, R130, R223, D29). -/
def mayWrite (cfg : Config) (ch : Channel) (i : Nat) : Bool :=
  ch.owner == .hw && ch.chstate == .capturing && !ch.stopped && i == ch.wpos && decide (i < cfg.ncell)

/-- The capture source's write of cell `v` at index `i`, and its write position past it (R223). -/
def cellWrite (c i : Nat) (v : Word) (s : State) : State :=
  s.modifyChan c (fun ch => { ch with cb := ch.cb.write i { word := v, fresh := true }, wpos := i + 1 })

/-- The byte at index `j` of the frame buffer; a free value where nothing was written since reset (R53; log entry 5). -/
def frameRead (s : State) (j : Nat) : Byte := (s.fb.read j).getD (Config.freeByte s.fbDraw j)

/-- `FrameWrite(j, v)` (R72). -/
def frameWrite (j : Nat) (v : Byte) (s : State) : State := { s with fb := s.fb.write j v }

/-- The header byte, `FB[0]` (R176). -/
def headerByte (s : State) : Byte := frameRead s 0

/-! ## The ports (R125, R130) -/

/-- `Emit(rec)` (R125): the sink takes the record at once. -/
def emit (r : Record) (s : State) : State := { s with sink := s.sink ++ [r] }

/-- What a command does at the capture source (R130, R237). DISABLE_CAPTURE: it writes no cell until re-armed.
RESET_AND_REARM: its write position is index 0 again (D37); the buffer is not cleared, and what stands in it is now from
an earlier capture. -/
def obeyCommand : CapOp → Channel → Channel
  | .disableCapture, ch => { ch with stopped := true }
  | .resetAndRearm, ch =>
    { ch with
      stopped := false
      wpos := 0
      cb := ch.cb.map (fun e => (e.1, { e.2 with fresh := false }))
      draw := ch.draw + 1 }

/-- `CapCmd(op, c)` (R130): the command is issued, and channel `c`'s capture source obeys it. -/
def capCmd (op : CapOp) (c : Nat) (s : State) : State :=
  { s.modifyChan c (obeyCommand op) with commands := s.commands ++ [{ op := op, ch := c }] }

/-! ## A dispatch invocation (R226, R227, R272, R273) -/

/-- Dispatch entry (R226, R272): the snapshot of the status word is the only thing saved. -/
def takeDispatch (s : State) : State := { s with work := s.status, bstate := .select }

/-- The end of an invocation (R227, R273): nothing is restored. -/
def endDispatch (s : State) : State := { s with bstate := .idle }

/-- Clear a pending bit before it is handled (R227). -/
def clearPending (b : Nat) (s : State) : State :=
  { s with work := clearBit s.work b, status := clearBit s.status b }

/-- Set a pending bit (R224, R225). -/
def setPending (b : Nat) (s : State) : State := { s with status := setBit s.status b }

/-! ## The start and the end of a frame (R171, R189) -/

/-- Frame start (R171). The frame buffer is not cleared. -/
def beginFrame (s : State) : State := { s with dec := Decoder.start }

/-- The frame ends, for the reason given (R52, R189). -/
def endFrame (why : Stop) (s : State) : State := { s with dec := { s.dec with stop := why } }

/-- Capture-complete entry (R229): disable, take ownership, latch and clear the gap counter, start the frame, decode. -/
def completeEntry (c : Nat) (gap : Nat) (s : State) : State :=
  let s := capCmd .disableCapture c s
  let s := s.modifyChan c (fun ch => { ch with owner := .sw, gap := 0 })
  let s := beginFrame { s with gaprec := gap, dch := c }
  { s with bstate := .decode }

/-- HandleError with the latch open (R233): latch suppression and report once. -/
def latchError (c : Nat) (s : State) : State :=
  emit (.error c) (s.modifyChan c (fun ch => { ch with errsup := true }))

/-- HandleError (R233). -/
def handleError (c : Nat) (errsup : Bool) (s : State) : State := if errsup then s else latchError c s

/-- The bytes of the frame, `FB[0..LEN-1]` (R122, R190). -/
def frameBytes (s : State) : List Byte := (List.range s.dec.len).map (frameRead s)

/-- The SUMMARY record of the frame just decoded, with channel `DCH`'s overrun count (R122, R190, R232). -/
def summaryOf (s : State) (overruns : Nat) : Summary :=
  { ch := s.dch, bytes := frameBytes s, len := s.dec.len, anomValid := s.dec.anomv
    anomalyIndex := s.dec.anomidx, skipKind := s.dec.skipk, skipIndex := s.dec.skipidx
    turnaroundTaken := s.dec.tataken, stop := s.dec.stop, nbits := s.dec.nb, partialByte := s.dec.acc
    cells := s.dec.cur, gap := s.gaprec, overruns := overruns }

/-- Finish (R232): emit the summary, hand the buffer back, re-arm, go on selecting. -/
def finishFrame (r : Summary) (s : State) : State :=
  let s := emit (.summary r) s
  let s := capCmd .resetAndRearm s.dch s
  let s := s.modifyChan s.dch (fun ch => { ch with owner := .hw, chstate := .armed })
  { s with bstate := .select }

/-! ## The sub-steps of a decoder step (R172-R188) -/

/-- The decoder is in RUN (R170). -/
def running (s : State) : Bool := s.bstate == .decode && s.dec.stop == .none

/-- The turnaround stands at cell index `j` (R177, R179). -/
def setBoundary (j : Nat) (s : State) : State :=
  { s with dec := { s.dec with skipk := .resolved, skipidx := j } }

/-- The header's table entry is zero (R177). -/
def leaveUnresolved (s : State) : State := { s with dec := { s.dec with skipk := .unresolved } }

/-- The effect of table entry `k` (R177). -/
def applyEntry (k : Byte) (s : State) : State :=
  if k = 0 then leaveUnresolved s else setBoundary (tableSkipIndex k) s

/-- The header is due to be resolved (R175). -/
def headerDue (s : State) : Bool := s.dec.skipk == .pending && s.dec.nb == 8

/-- S3, header resolution (R175-R177). -/
def resolveHeader (s : State) : State :=
  if headerDue s then applyEntry (tableRead s.cfg (headerByte s)) s else s

/-- The anomaly of the cell at `CUR` is recorded, and becomes the boundary if none is known (R178-R180). -/
def recordAnomaly (s : State) : State :=
  let t := { s with dec := { s.dec with anomv := true, anomidx := s.dec.cur } }
  if s.dec.skipk = .unresolved then setBoundary s.dec.cur t else t

/-- S4, anomaly detection on the cell `(l, h)` at `CUR` (R178-R180). -/
def noteAnomaly (l h : Nat) (s : State) : State :=
  if isAnomalous s.cfg l h then recordAnomaly s else s

/-- The cell at `CUR` is the turnaround cell (R182). -/
def atTurnaround (s : State) : Bool := s.dec.skipk == .resolved && s.dec.cur == s.dec.skipidx

/-- S5, the turnaround cell is passed and the cell after it is checked (R183, R184). -/
def passTurnaround (s : State) : State :=
  let t := { s with dec := { s.dec with tataken := true, cur := s.dec.cur + 1 } }
  if t.dec.cur ≥ s.cfg.ncell then endFrame .noSentinel t
  else if isSentinel (cellHigh s.cfg (cellRead t t.dch t.dec.cur)) then endFrame .sentinel t
  else t

/-- S7, one bit enters the accumulator (R186). -/
def assembleBit (bit : Bool) (s : State) : State :=
  { s with dec := { s.dec with acc := shiftIn s.dec.acc bit, nb := s.dec.nb + 1 } }

/-- S7, the byte in the accumulator is written, emitted and counted, and the accumulator cleared (R187). -/
def completeByte (s : State) : State :=
  let t := emit (.byte s.dch s.dec.acc) (frameWrite s.dec.len s.dec.acc s)
  { t with dec := { s.dec with len := s.dec.len + 1, acc := 0 } }

/-- S7, byte completion on every eighth bit (R187). -/
def finishBit (s : State) : State := if s.dec.nb % 8 = 0 then completeByte s else s

/-- S8, advance (R188). -/
def advance (s : State) : State := { s with dec := { s.dec with cur := s.dec.cur + 1 } }

/-- S6 to S8 on a data bit: capacity, assembly, advance (R185-R188). -/
def consumeBit (bit : Bool) (s : State) : State :=
  if s.dec.nb = 8 * s.cfg.nbyte then endFrame .frameTooLong s
  else advance (finishBit (assembleBit bit s))

/-- S3 to S8 of a decoder step on the data cell `(l, h)` at `CUR`, whose own bit is `bit`: the header, the anomaly, the
turnaround, then the bit of this cell or, past the turnaround, of the next one, which is not tested for anomaly
(R172, R181). -/
def runCell (l h : Nat) (bit : Bool) (s : State) : State :=
  let s := noteAnomaly l h (resolveHeader s)
  if atTurnaround s then
    let s := passTurnaround s
    if s.dec.stop = .none then consumeBit (bitOf s.cfg (cellHigh s.cfg (cellRead s s.dch s.dec.cur))) s else s
  else consumeBit bit s

/-- The decoder is in RUN and `CUR` names a cell of the buffer, so a step examines that cell (R173, R174). -/
def cellSelected (s : State) : Bool := running s && decide (s.dec.cur < s.cfg.ncell)

/-- The header byte `hb` is the one to be resolved in this step (R175, R176). -/
def headerSelected (hb : Byte) (s : State) : Bool := running s && headerDue s && headerByte s == hb

/-- The byte `value` stands complete in the accumulator and is not yet written (R187). -/
def byteDue (ch : Nat) (value : Byte) (s : State) : Bool :=
  running s && s.dch == ch && s.dec.acc == value && s.dec.nb == 8 * (s.dec.len + 1)
    && decide (s.dec.len < s.cfg.nbyte)

/-! ## Clock and reset (R238, R300) -/

/-- Every gap counter counts one tick, modulo 2^GW (R238). -/
def tickGaps (s : State) : State :=
  { s with channels := s.channels.map (fun ch => { ch with gap := (ch.gap + 1) % 2 ^ s.cfg.gw }) }

/-- One more lost frame, saturating at 2^OW - 1 (R240). -/
def countOverrun (c : Nat) (s : State) : State :=
  s.modifyChan c (fun ch => { ch with ovr := min (ch.ovr + 1) (2 ^ s.cfg.ow - 1) })

/-- Reset (R300): every register at its reset value, the stores unspecified anew, the configuration unchanged; no record,
no command. What the sink and the capture sources have been sent, and the turns still to come, are not state of the
block. -/
def resetAll (s : State) : State :=
  { State.resetWith s.cfg with
    channels := s.channels.map (fun ch => { Channel.reset with draw := ch.draw + 1 })
    fbDraw := s.fbDraw + 1
    sink := s.sink
    commands := s.commands
    agenda := s.agenda
    choices := s.choices }

end Sys2Proof.Machine
end

