-- ==== Sys2Proof/Machine/Bitcell.lean ====
section
/-!
DEFINITION. The rows of 40_bitcell.md. A cell class is executed as the decoder step that examines a cell of that class at
`CUR` (R172); an attribute as sub-step S4 of that step (R178-R180).
-/

namespace Sys2Proof.Machine

/-- CELL_SENTINEL (R141, R174): the decoder reaches a sentinel, the frame ends and `CUR` stays. -/
def execCellSentinel (_l : Nat) (s : State) : Result :=
  if cellSelected s then .next (endFrame .sentinel s) else .refused .notSelected

/-- CELL_DATA0 (R143, R172): the decoder step on a cell whose bit is 0. -/
def execCellData0 (l h : Nat) (s : State) : Result :=
  if cellSelected s && cellClass s.cfg h == .data0 then withChan s.dch s (fun _ => .next (runCell l h false s))
  else .refused .notSelected

/-- CELL_DATA1 (R144, R172): the decoder step on a cell whose bit is 1. -/
def execCellData1 (l h : Nat) (s : State) : Result :=
  if cellSelected s && cellClass s.cfg h == .data1 then withChan s.dch s (fun _ => .next (runCell l h true s))
  else .refused .notSelected

/-- CELL_ANOMALOUS (R146, R178-R180): sub-step S4 on an anomalous cell. -/
def execCellAnomalous (l h : Nat) (s : State) : Result :=
  if cellSelected s && !isSentinel h && isAnomalous s.cfg l h then .next (recordAnomaly s)
  else .refused .notSelected

/-- CELL_INWINDOW (R146, R147): sub-step S4 on an in-window cell records nothing. -/
def execCellInwindow (l h : Nat) (s : State) : Result :=
  if cellSelected s && !isSentinel h && !isAnomalous s.cfg l h then .next s else .refused .notSelected

end Sys2Proof.Machine
end

