-- ==== Sys2Proof/Machine/FrameDecoder.lean ====
section
/-!
DEFINITION. The rows of 41_frame_decoder.md: the header byte's boundary rule (sub-step S3), the turnaround cell (S5), the
BYTE record (S7) and the whole decoder step.
-/

namespace Sys2Proof.Machine

/-- HEADER_KNOWN (R177): the header's entry `k` is not zero, so the turnaround stands at cell `8*k`. -/
def execHeaderKnown (hb : Byte) (s : State) : Result :=
  if headerSelected hb s && tableRead s.cfg hb != 0 then
    .next (setBoundary (tableSkipIndex (tableRead s.cfg hb)) s)
  else .refused .notSelected

/-- HEADER_DYNAMIC (R177, R179): the header's entry is zero, so the first anomaly from now on is the turnaround. -/
def execHeaderDynamic (hb : Byte) (s : State) : Result :=
  if headerSelected hb s && tableRead s.cfg hb == 0 then .next (leaveUnresolved s) else .refused .notSelected

/-- HEADER_0x01 (R109, R177): entry 1, the turnaround stands at cell 8. -/
def execHeader01 (s : State) : Result :=
  if headerSelected 0x01 s then .next (setBoundary (tableSkipIndex (tableRead s.cfg 0x01)) s)
  else .refused .notSelected

/-- HEADER_0x09 (R109, R177): entry 3, the turnaround stands at cell 24. -/
def execHeader09 (s : State) : Result :=
  if headerSelected 0x09 s then .next (setBoundary (tableSkipIndex (tableRead s.cfg 0x09)) s)
  else .refused .notSelected

/-- CELL_TURNAROUND (R182-R184): whatever data cell stands at `SKIPIDX` is passed without a bit, and the cell after it is
checked for the buffer end and for the sentinel. -/
def execCellTurnaround (_l h : Nat) (s : State) : Result :=
  if cellSelected s && atTurnaround s && !isSentinel h then withChan s.dch s (fun _ => .next (passTurnaround s))
  else .refused .notSelected

/-- SINK_BYTE (R121, R187): the completed byte is written to the frame buffer, emitted and counted. -/
def execSinkByte (ch : Nat) (value : Byte) (s : State) : Result :=
  if byteDue ch value s then .next (completeByte s) else .refused .notSelected

/-- STEP_DECODE (R172): S1 the buffer end, S2 the sentinel, then S3 to S8 on the data cell at `CUR`. -/
def execStepDecode (s : State) : Result :=
  if running s then
    if s.dec.cur ≥ s.cfg.ncell then .next (endFrame .noSentinel s)
    else
      withChan s.dch s fun _ =>
        let w := cellRead s s.dch s.dec.cur
        match cellClass s.cfg (cellHigh s.cfg w) with
        | .sentinel => .next (endFrame .sentinel s)
        | .data0 => .next (runCell (cellLow s.cfg w) (cellHigh s.cfg w) false s)
        | .data1 => .next (runCell (cellLow s.cfg w) (cellHigh s.cfg w) true s)
  else .refused .notSelected

/-- STEP_DECODE_DONE (R231): the frame has ended, its summary and hand-back are due. -/
def execStepDecodeDone (s : State) : Result :=
  if s.bstate == .decode && s.dec.stop != .none then .next { s with bstate := .finish }
  else .refused .notSelected

end Sys2Proof.Machine
end

