-- ==== Sys2Proof/Machine/FrameSync.lean ====
section
/-!
DEFINITION. The rows of 42_frame_sync.md and 70_reset_and_hazards.md: the capture sources' inputs, the dispatcher's steps,
the two status events, the two capture commands, the SUMMARY and ERROR records, the clock and reset.
-/

namespace Sys2Proof.Machine

/-! ## Inputs of the capture sources (R221-R225, R240) -/

/-- IN_FRAME_START (R221): `frameStart c` while armed. -/
def execInFrameStart (c : Nat) (s : State) : Result :=
  withChan c s fun ch =>
    if ch.chstate = .armed then .next (s.modifyChan c (fun ch => { ch with chstate := .capturing }))
    else .refused .notSelected

/-- IN_FRAME_START_CAPTURING (R222): `frameStart c` while capturing changes nothing. -/
def execInFrameStartCapturing (c : Nat) (s : State) : Result :=
  withChan c s fun ch => if ch.chstate = .capturing then .next s else .refused .notSelected

/-- IN_FRAME_START_OVERRUN (R240): `frameStart c` while the buffer is not handed back; the frame is lost and counted. -/
def execInFrameStartOverrun (c : Nat) (s : State) : Result :=
  withChan c s fun ch => if ch.chstate = .complete then .next (countOverrun c s) else .refused .notSelected

/-- IN_CELL_WRITE (R223, R86): the next cell in index order, from a capture source that keeps its duties. -/
def execInCellWrite (c i : Nat) (v : Word) (s : State) : Result :=
  withChan c s fun ch =>
    if mayWrite s.cfg ch i then .next (cellWrite c i v s) else .refused .captureDuty

/-- IN_CAPTURE_DONE (R224, R86): only from CAPTURING; sets `CC[c]`. -/
def execInCaptureDone (c : Nat) (s : State) : Result :=
  withChan c s fun ch =>
    if ch.chstate = .capturing then
      .next (setPending (ccBit c) (s.modifyChan c (fun ch => { ch with chstate := .complete })))
    else .refused .captureDuty

/-- IN_CAPTURE_ERROR (R225): sets `ERR[c]` unless the channel's errors are suppressed. -/
def execInCaptureError (c : Nat) (s : State) : Result :=
  withChan c s fun ch => .next (if ch.errsup then s else setPending (errBit c) s)

/-! ## Dispatch (R226-R233) -/

/-- STEP_DISPATCH_ENTRY (R226). -/
def execStepDispatchEntry (s : State) : Result :=
  if s.bstate == .idle && s.status != 0 then .next (takeDispatch s) else .refused .notSelected

/-- EVT_CAPTURE_COMPLETE (R229): the handler of a capture-complete event, run in a select step. -/
def execEvtCaptureComplete (c : Nat) (s : State) : Result :=
  if s.bstate == .select then withChan c s (fun ch => .next (completeEntry c ch.gap s))
  else .refused .notSelected

/-- EVT_CAPTURE_ERROR (R233): the handler of a capture-error event, run in a select step. -/
def execEvtCaptureError (c : Nat) (s : State) : Result :=
  if s.bstate == .select then withChan c s (fun ch => .next (handleError c ch.errsup s))
  else .refused .notSelected

/-- STEP_SELECT (R227): the snapshot is exhausted, or the bit that `dispatchOrder` chooses (`b` where it is set) is
cleared and its event handled in the same step. -/
def execStepSelect (b : Nat) (s : State) : Result :=
  if s.bstate == .select then
    match pickBit s.work b (2 * s.cfg.nch) with
    | none => .next (endDispatch s)
    | some j =>
      withChan (bitChannel j) s fun ch =>
        if bitIsError j then .next (handleError (bitChannel j) ch.errsup (clearPending j s))
        else .next (completeEntry (bitChannel j) ch.gap (clearPending j s))
  else .refused .notSelected

/-- STEP_FINISH (R232). -/
def execStepFinish (s : State) : Result :=
  if s.bstate == .finish then withChan s.dch s (fun ch => .next (finishFrame (summaryOf s ch.ovr) s))
  else .refused .notSelected

/-! ## Ports (R120-R125, R130) -/

/-- CMD_DISABLE_CAPTURE (R130): the command alone, as the capture source takes it. -/
def execCmdDisableCapture (c : Nat) (s : State) : Result :=
  withChan c s (fun _ => .next (capCmd .disableCapture c s))

/-- CMD_RESET_AND_REARM (R130, R237): the command alone, as the capture source takes it. -/
def execCmdResetAndRearm (c : Nat) (s : State) : Result :=
  withChan c s (fun _ => .next (capCmd .resetAndRearm c s))

/-- SINK_SUMMARY (R122, R232): the record whose fields are the ones the finish step takes from the state is emitted, and
that step is done whole. -/
def execSinkSummary (r : Summary) (s : State) : Result :=
  if s.bstate == .finish then
    withChan s.dch s fun ch =>
      if r = summaryOf s ch.ovr then .next (finishFrame r s) else .refused .notSelected
  else .refused .notSelected

/-- SINK_ERROR (R123, R233): the one ERROR record of a channel is emitted and the channel's errors are suppressed. -/
def execSinkError (ch : Nat) (s : State) : Result :=
  if s.bstate == .select then
    withChan ch s fun chan => if chan.errsup then .refused .notSelected else .next (latchError ch s)
  else .refused .notSelected

/-! ## Clock and reset (R238, R300) -/

/-- STEP_CLOCK_TICK (R238). -/
def execStepClockTick (s : State) : Result := .next (tickGaps s)

/-- STEP_RESET (R300): in any state. -/
def execStepReset (s : State) : Result := .next (resetAll s)

end Sys2Proof.Machine
end

