-- ==== Sys2Proof/Machine/Dispatch.lean ====
section
/-! DEFINITION. The dispatch of every instruction to its meaning. -/

namespace Sys2Proof.Machine

def exec (i : Instr) (s : State) : Host.Outcome State Fault Refusal :=
  match i with
  | .cellSentinel l => Sys2Proof.Machine.execCellSentinel l s
  | .cellData0 l h => Sys2Proof.Machine.execCellData0 l h s
  | .cellData1 l h => Sys2Proof.Machine.execCellData1 l h s
  | .cellAnomalous l h => Sys2Proof.Machine.execCellAnomalous l h s
  | .cellInwindow l h => Sys2Proof.Machine.execCellInwindow l h s
  | .cellTurnaround l h => Sys2Proof.Machine.execCellTurnaround l h s
  | .headerKnown hb => Sys2Proof.Machine.execHeaderKnown hb s
  | .headerDynamic hb => Sys2Proof.Machine.execHeaderDynamic hb s
  | .header01 => Sys2Proof.Machine.execHeader01 s
  | .header09 => Sys2Proof.Machine.execHeader09 s
  | .evtCaptureComplete c => Sys2Proof.Machine.execEvtCaptureComplete c s
  | .evtCaptureError c => Sys2Proof.Machine.execEvtCaptureError c s
  | .cmdDisableCapture c => Sys2Proof.Machine.execCmdDisableCapture c s
  | .cmdResetAndRearm c => Sys2Proof.Machine.execCmdResetAndRearm c s
  | .sinkByte ch value => Sys2Proof.Machine.execSinkByte ch value s
  | .sinkSummary r => Sys2Proof.Machine.execSinkSummary r s
  | .sinkError ch => Sys2Proof.Machine.execSinkError ch s
  | .inFrameStart c => Sys2Proof.Machine.execInFrameStart c s
  | .inFrameStartCapturing c => Sys2Proof.Machine.execInFrameStartCapturing c s
  | .inFrameStartOverrun c => Sys2Proof.Machine.execInFrameStartOverrun c s
  | .inCellWrite c j v => Sys2Proof.Machine.execInCellWrite c j v s
  | .inCaptureDone c => Sys2Proof.Machine.execInCaptureDone c s
  | .inCaptureError c => Sys2Proof.Machine.execInCaptureError c s
  | .stepDispatchEntry => Sys2Proof.Machine.execStepDispatchEntry s
  | .stepSelect b => Sys2Proof.Machine.execStepSelect b s
  | .stepDecode => Sys2Proof.Machine.execStepDecode s
  | .stepDecodeDone => Sys2Proof.Machine.execStepDecodeDone s
  | .stepFinish => Sys2Proof.Machine.execStepFinish s
  | .stepClockTick => Sys2Proof.Machine.execStepClockTick s
  | .stepReset => Sys2Proof.Machine.execStepReset s

end Sys2Proof.Machine
end

