-- ==== Sys2Proof/Machine/Flags.lean ====
section
/-!
DEFINITION. The one-bit flags of R54 and the seven conditions of R261. A condition is recorded in the state its rule
names and nowhere else (R17, R260), so each is read from that state or from the record that reports it.
-/

namespace Sys2Proof.Machine

/-- `CC[c]`, capture-complete pending (R34, R106). -/
def ccPending (s : State) (c : Nat) : Bool := s.status.testBit (ccBit c)

/-- `ERR[c]`, capture-error pending (R34, R106). -/
def errPending (s : State) (c : Nat) : Bool := s.status.testBit (errBit c)

/-- The conditions of R261. -/
inductive Condition where
  | anomaly
  | unresolvedTurnaround
  | captureError
  | frameTooLong
  | noSentinel
  | overrun
  | shortFrame
  deriving DecidableEq, Repr

/-- The condition's code (R261). -/
def Condition.code : Condition → Nat
  | .anomaly => 1
  | .unresolvedTurnaround => 2
  | .captureError => 3
  | .frameTooLong => 4
  | .noSentinel => 5
  | .overrun => 6
  | .shortFrame => 7

/-- Hard conditions, as R261 classes them; the others are soft. -/
def Condition.isHard : Condition → Bool
  | .anomaly => false
  | .unresolvedTurnaround => false
  | .captureError => true
  | .frameTooLong => true
  | .noSentinel => true
  | .overrun => true
  | .shortFrame => false

/-- The record reports the condition, in the field R261 names. -/
def Record.reports : Record → Condition → Bool
  | .summary r, .anomaly => r.anomValid
  | .summary r, .unresolvedTurnaround => r.skipKind == .unresolved
  | .summary r, .frameTooLong => r.stop == .frameTooLong
  | .summary r, .noSentinel => r.stop == .noSentinel
  | .summary r, .overrun => decide (0 < r.overruns)
  | .summary r, .shortFrame => decide (r.nbits < 8)
  | .summary _, .captureError => false
  | .error _, k => k == .captureError
  | .byte _ _, _ => false

/-- The condition stands recorded for channel `c`, in the state R261 names; of a frame condition, for the frame in the
decoder registers. -/
def Condition.recorded (s : State) (c : Nat) : Condition → Bool
  | .anomaly => s.dec.anomv
  | .unresolvedTurnaround => s.dec.stop != .none && s.dec.skipk == .unresolved
  | .captureError => (s.chan? c).elim false (·.errsup)
  | .frameTooLong => s.dec.stop == .frameTooLong
  | .noSentinel => s.dec.stop == .noSentinel
  | .overrun => (s.chan? c).elim false (fun ch => decide (0 < ch.ovr))
  | .shortFrame => s.dec.stop != .none && decide (s.dec.nb < 8)

/-- The block is quiescent (R313). -/
def quiescent (s : State) : Bool := s.bstate == .idle && s.status == 0

end Sys2Proof.Machine
end

