-- ==== Sys2Proof/Machine/Fetch.lean ====
section
/-!
DEFINITION. Which instruction the next step runs. The agenda says whose turn it is (R5, R19); on a turn of the block itself
its state selects the step (R226, R227, R231, R232), and when the agenda is empty the block goes on by itself until it is
quiescent (R313: an enabled step is eventually taken), `dispatchOrder` then being a free value.
-/

namespace Sys2Proof.Machine

/-- What the next step does. -/
inductive Fetched where
  /-- It runs this instruction in this state. -/
  | run (i : Instr) (s : State)
  /-- The block has no enabled step, and its state is held (R281). -/
  | idle (s : State)
  /-- The word of the turn is no instruction. -/
  | reject (why : Reject)

/-- The block's own enabled step, if any; `b` is the bit that `dispatchOrder` names (R226, R227, R231, R232). -/
def enabledStep (s : State) (b : Nat) : Option Instr :=
  match s.bstate with
  | .idle => if s.status = 0 then none else some .stepDispatchEntry
  | .select => some (.stepSelect (b % (2 * s.cfg.nch)))
  | .decode => if s.dec.stop = .none then some .stepDecode else some .stepDecodeDone
  | .finish => some .stepFinish

/-- The next instruction, and the state once its turn is taken from the agenda. -/
def fetch (s : State) : Fetched :=
  match s.agenda with
  | [] =>
    match enabledStep s (Config.freeChoice s.choices) with
    | some i => .run i { s with choices := s.choices + 1 }
    | none => .idle s
  | .pwd b :: rest =>
    match enabledStep s b with
    | some i => .run i { s with agenda := rest }
    | none => .idle { s with agenda := rest }
  | .packet fmt w :: rest =>
    match decode s.context fmt w with
    | .ok i => .run i { s with agenda := rest }
    | .error why => .reject why

/-- Make the decoder ready to examine a cell: RUN, on a channel and a cell index that exist (R170, R173). -/
def readyForCell (s : State) : State :=
  { s with
    bstate := .decode
    dch := if s.dch < s.channels.length then s.dch else 0
    dec := { s.dec with stop := .none, cur := if s.dec.cur < s.cfg.ncell then s.dec.cur else 0 } }

/-- Make the decoder ready to resolve the header byte `hb`: RUN, one byte decoded, header pending (R175, R176). -/
def readyForHeader (hb : Byte) (s : State) : State :=
  frameWrite 0 hb { s with bstate := .decode, dec := { s.dec with stop := .none, skipk := .pending, nb := 8 } }

end Sys2Proof.Machine
end

