-- ==== Sys2Proof/Machine/Step.lean ====
section
/-! DEFINITION. One step of the machine: one atomic step of one agent (R19). -/

namespace Sys2Proof.Machine

/-- One step: fetch the instruction whose turn it is and execute it. -/
def step (s : State) : Host.Outcome State Fault Refusal :=
  match fetch s with
  | .run i t => exec i t
  | .idle t => .next t
  | .reject why => .refused (.undecodable why)

/-- The state in which the very next step runs the instruction of a table row's bits: its word is the agenda's next turn,
and the decoder stands where such a row can be selected (log entry 9). -/
def State.withFetchWord (s : State) (nbits w : Nat) : State :=
  match nbits with
  | 8 => { readyForHeader (BitVec.ofNat 8 w) s with agenda := .packet .headerByte w :: s.agenda }
  | 16 => { readyForCell s with agenda := .packet .cellWord w :: s.agenda }
  | _ => s

end Sys2Proof.Machine
end

