-- ==== Sys2Proof/Safety.lean ====
section
/-!
DEFINITION. What holds of the machine in every state a run reaches: the stores are canonical and within their capacity
(R70-R75), the registers fit their widths (R11, R12, R56), every capture source has written its buffer in order (R223,
R303), the invariants of R57 hold of the dispatcher and of the decoder, and a frame's bytes have reached the sink (R241).
The premise on the agenda says that its turns are whole atomic steps of agents (R19).
-/

namespace Sys2Proof.Machine

/-- A turn that is a whole atomic step of some agent (R19). -/
def Turn.isMove : Turn → Bool
  | .pwd _ => true
  | .packet fmt _ => fmt.isMove

/-- Every turn still to come is a whole atomic step. -/
def State.AgendaMoves (s : State) : Prop := ∀ t ∈ s.agenda, t.isMove = true

/-- Every store is in canonical form. -/
structure State.StoresCanonical (s : State) : Prop where
  cb : ∀ ch ∈ s.channels, Memory.wf ch.cb
  fb : Memory.wf s.fb

/-- Every stored element has an index within its store's capacity, and a cell word fits its width (R70, R72, R75). -/
structure State.StoresInRange (s : State) : Prop where
  cb : ∀ ch ∈ s.channels, ∀ e ∈ ch.cb, e.1 < s.cfg.ncell ∧ e.2.word < 2 ^ (2 * s.cfg.tw)
  fb : ∀ e ∈ s.fb, e.1 < s.cfg.nbyte

/-- The configuration is one the spec allows, every channel exists, and the status words and counters fit their widths
(R9, R34, R38, R39, R42-R44, R56, R107). -/
structure State.RegistersFit (s : State) : Prop where
  cfg : s.cfg.wf = true
  channels : s.channels.length = s.cfg.nch
  status : s.status < 2 ^ (2 * s.cfg.nch)
  work : s.work < 2 ^ (2 * s.cfg.nch)
  dch : s.dch < s.cfg.nch
  gaprec : s.gaprec < 2 ^ s.cfg.gw
  gap : ∀ ch ∈ s.channels, ch.gap < 2 ^ s.cfg.gw
  ovr : ∀ ch ∈ s.channels, ch.ovr < 2 ^ s.cfg.ow

/-- The dispatcher's invariants (R57(g), (h), (i), R228, R235). -/
structure State.DispatchOk (s : State) : Prop where
  /-- A bit of the snapshot is still pending in the status word. -/
  work : ∀ b, s.work.testBit b = true → s.status.testBit b = true
  /-- (g): the dispatcher owns a buffer exactly while it decodes or finishes that channel's frame. -/
  owner : ∀ c ch, s.chan? c = some ch →
    (ch.owner = .sw ↔ (s.bstate = .decode ∨ s.bstate = .finish) ∧ s.dch = c)
  /-- (h): a buffer the dispatcher owns belongs to a completed capture. -/
  complete : ∀ c ch, s.chan? c = some ch → ch.owner = .sw → ch.chstate = .complete
  /-- R235: a pending capture-complete event belongs to a completed capture whose buffer is not yet taken. -/
  pending : ∀ c ch, s.chan? c = some ch → ccPending s c = true → ch.chstate = .complete ∧ ch.owner = .hw
  /-- (i): a pending capture-error event was set while the channel's errors were enabled, and they still are. -/
  error : ∀ c ch, s.chan? c = some ch → errPending s c = true → ch.errsup = false
  /-- A capture source is stopped by DISABLE_CAPTURE exactly while the dispatcher owns its buffer (R83). -/
  stopped : ∀ c ch, s.chan? c = some ch → (ch.stopped = true ↔ ch.owner = .sw)

/-- The capture sources' invariants: each writes its buffer in index order from 0 (R223, R237, R303; log entry 14). -/
structure State.CapturesOk (s : State) : Prop where
  /-- The write position stays within the buffer, or just past it. -/
  bound : ∀ ch ∈ s.channels, ch.wpos ≤ s.cfg.ncell
  /-- A capture source that waits for a frame will write it from index 0 (R221, R304). -/
  armed : ∀ ch ∈ s.channels, ch.chstate = .armed → ch.wpos = 0
  /-- The cells written since the last re-arm are those below the write position, and no others. -/
  written : ∀ ch ∈ s.channels, ∀ j, (ch.cb.read j).any (·.fresh) = decide (j < ch.wpos)

/-- From a frame's start to its SUMMARY, the sink's last records are the frame's BYTE records in order (R187, R241). -/
def State.BytesReported (s : State) : Prop :=
  s.bstate = .decode ∨ s.bstate = .finish →
    ∃ before, s.sink = before ++ (List.range s.dec.len).map (fun j => .byte s.dch (frameRead s j))

/-- The decoder's invariants (R57(a)-(f), R191-R193). -/
structure State.DecoderOk (s : State) : Prop where
  /-- (a): the data bits are the cells passed, less the turnaround. -/
  count : s.dec.cur = s.dec.nb + (if s.dec.tataken then 1 else 0)
  /-- (b): the completed bytes. -/
  len : s.dec.len = s.dec.nb / 8
  /-- (b): the frame buffer's capacity, in bits. -/
  capacity : s.dec.nb ≤ 8 * s.cfg.nbyte
  /-- (c): the accumulator holds the bits since the last whole byte. -/
  acc : s.dec.acc.toNat < 2 ^ (s.dec.nb % 8)
  /-- (d): a known turnaround stands after the header. -/
  boundary : s.dec.skipk = .resolved → 8 ≤ s.dec.skipidx
  /-- (e): a turnaround that was passed was known, and is behind the cursor. -/
  taken : s.dec.tataken = true → s.dec.skipk = .resolved ∧ s.dec.skipidx + 1 ≤ s.dec.cur
  /-- (f): no anomaly, no index. -/
  noAnomaly : s.dec.anomv = false → s.dec.anomidx = 0
  /-- The cursor stays within the buffer, or just past it (R45, R173). -/
  cursor : s.dec.cur ≤ s.cfg.ncell
  /-- The header is resolved no later than at cell 8 (R175, R192). -/
  headerPending : s.dec.skipk = .pending → s.dec.cur ≤ 8
  /-- An unresolved header is behind the cursor (R179). -/
  headerPassed : s.dec.skipk = .unresolved → 8 ≤ s.dec.cur
  /-- A known turnaround that was not passed is at or ahead of the cursor (R192). -/
  ahead : s.dec.skipk = .resolved → s.dec.tataken = false → s.dec.cur ≤ s.dec.skipidx
  /-- The bytes counted were written (R53, R303). -/
  written : ∀ j < s.dec.len, (s.fb.read j).isSome = true

/-- The decoder registers fit their widths (R11, R12, R56). -/
structure State.DecoderFits (s : State) : Prop where
  cur : s.dec.cur < 2 ^ s.cfg.iw
  skipidx : s.dec.skipidx < 2 ^ s.cfg.iw
  anomidx : s.dec.anomidx < 2 ^ s.cfg.iw
  nb : s.dec.nb < 2 ^ s.cfg.nw
  len : s.dec.len < 2 ^ s.cfg.lw

/-- The invariant of every run whose agenda holds whole steps. -/
structure State.Inv (s : State) : Prop where
  agenda : s.AgendaMoves
  canonical : s.StoresCanonical
  inRange : s.StoresInRange
  registers : s.RegistersFit
  dispatch : s.DispatchOk
  captures : s.CapturesOk
  reported : s.BytesReported
  decoder : s.DecoderOk
  widths : s.DecoderFits

/-- A run of `n` decoder steps, stopping when the decoder leaves RUN (R200). -/
def decodeRun : Nat → State → Result
  | 0, s => .next s
  | n + 1, s =>
    if running s then
      match exec .stepDecode s with
      | .next t => decodeRun n t
      | .fault r => .fault r
      | .refused r => .refused r
    else .next s

end Sys2Proof.Machine
end

