-- ==== Sys2Proof/Certificates/Slice0/Obligations.lean ====
section
/-!
DEFINITION. The statements for the provers, in the order of OBLIGATIONS.json. They are written with the registers and the
literals of the spec's pseudocode rather than with the operations of `Sys2Proof.Machine`, so that each says what the spec
says and not what the model's own code says.
-/

open Sys2Proof Sys2Proof.Machine

namespace Sys2Proof.Machine

/-! ## The consolidated listing of 41_frame_decoder.md, section 9, written straight from it -/

/-- `highTicks` of a cell word. -/
def Listing.high (cfg : Config) (w : Word) : Nat := w / 2 ^ cfg.tw % 2 ^ cfg.tw

/-- `lowTicks` of a cell word. -/
def Listing.low (cfg : Config) (w : Word) : Nat := w % 2 ^ cfg.tw

/-- The lines S6 to S8 of the listing, with `d` the decoder registers so far and `hi` the high ticks of the cell used. -/
def Listing.assemble (s : State) (d : Decoder) (hi : Nat) : State :=
  if d.nb = 8 * s.cfg.nbyte then { s with dec := { d with stop := .frameTooLong } }
  else
    let acc : Byte := d.acc.extractLsb' 0 7 ++ BitVec.ofBool (decide (2 * hi > s.cfg.p))
    let nb := d.nb + 1
    if nb % 8 = 0 then
      { s with
        fb := s.fb.write d.len acc
        sink := s.sink ++ [.byte s.dch acc]
        dec := { d with acc := 0, nb := nb, len := d.len + 1, cur := d.cur + 1 } }
    else { s with dec := { d with acc := acc, nb := nb, cur := d.cur + 1 } }

/-- `DecodeStep()` of the listing. -/
def Listing.decodeStep (s : State) : State :=
  if s.dec.cur ≥ s.cfg.ncell then { s with dec := { s.dec with stop := .noSentinel } }
  else
    let w := cellRead s s.dch s.dec.cur
    if Listing.high s.cfg w = 0 then { s with dec := { s.dec with stop := .sentinel } }
    else
      let d : Decoder :=
        if s.dec.skipk = .pending ∧ s.dec.nb = 8 then
          let k := tableRead s.cfg (frameRead s 0)
          if k ≠ 0 then { s.dec with skipk := .resolved, skipidx := 8 * k.toNat }
          else { s.dec with skipk := .unresolved }
        else s.dec
      let sum := Listing.low s.cfg w + Listing.high s.cfg w
      let d : Decoder :=
        if sum < s.cfg.p - 1 ∨ sum > s.cfg.p + 1 then
          let d : Decoder := { d with anomv := true, anomidx := d.cur }
          if d.skipk = .unresolved then { d with skipk := .resolved, skipidx := d.cur } else d
        else d
      if d.skipk = .resolved ∧ d.cur = d.skipidx then
        let d : Decoder := { d with tataken := true, cur := d.cur + 1 }
        if d.cur ≥ s.cfg.ncell then { s with dec := { d with stop := .noSentinel } }
        else
          let w := cellRead s s.dch d.cur
          if Listing.high s.cfg w = 0 then { s with dec := { d with stop := .sentinel } }
          else Listing.assemble s d (Listing.high s.cfg w)
      else Listing.assemble s d (Listing.high s.cfg w)

/-! ## Shared shapes -/

/-- What a decoder step may write: the decoder registers, and together the frame-buffer byte at `LEN` and one BYTE record of
it to the sink (R199, R187). -/
structure DecoderFrame (s t : State) : Prop where
  rest : t = { s with dec := t.dec, fb := t.fb, sink := t.sink }
  fb : ∀ j, j ≠ s.dec.len → t.fb.read j = s.fb.read j
  sink : (t.sink = s.sink ∧ t.fb = s.fb) ∨ ∃ v, t.sink = s.sink ++ [.byte s.dch v] ∧ t.fb.read s.dec.len = some v

/-- The SUMMARY record of R122, every field taken from the state. -/
def reportedSummary (s : State) (ovr : Nat) : Summary :=
  { ch := s.dch, bytes := (List.range s.dec.len).map (frameRead s), len := s.dec.len
    anomValid := s.dec.anomv, anomalyIndex := s.dec.anomidx, skipKind := s.dec.skipk
    skipIndex := s.dec.skipidx, turnaroundTaken := s.dec.tataken, stop := s.dec.stop, nbits := s.dec.nb
    partialByte := s.dec.acc, cells := s.dec.cur, gap := s.gaprec, overruns := ovr }

/-- The cell words of a capture buffer, whatever capture they are from. -/
def storedWord (ch : Channel) (j : Nat) : Option Word := (ch.cb.read j).map (·.word)

/-- The decoder is in RUN on a cell of the buffer (R170, R173). -/
def OnCell (s : State) : Prop := s.bstate = .decode ∧ s.dec.stop = .none ∧ s.dec.cur < s.cfg.ncell

/-- The decoder is in RUN and the header byte `hb` is due to be resolved (R175, R176). -/
def OnHeader (s : State) (hb : Byte) : Prop :=
  s.bstate = .decode ∧ s.dec.stop = .none ∧ s.dec.skipk = .pending ∧ s.dec.nb = 8 ∧ frameRead s 0 = hb

/-- The select condition of each row of the opcode table: what the state must be for the block, or a capture source, to have
this step (log entry 11). The rows that have none stand at the end; the duties of the capture sources are `BreaksDuty`. -/
def Selects (s : State) : Instr → Prop
  | .cellSentinel _ => OnCell s
  | .cellData0 _ h => OnCell s ∧ 1 ≤ h ∧ h ≤ s.cfg.p / 2
  | .cellData1 _ h => OnCell s ∧ s.cfg.p / 2 + 1 ≤ h
  | .cellAnomalous l h => OnCell s ∧ h ≠ 0 ∧ (l + h < s.cfg.p - 1 ∨ l + h > s.cfg.p + 1)
  | .cellInwindow l h => OnCell s ∧ h ≠ 0 ∧ s.cfg.p - 1 ≤ l + h ∧ l + h ≤ s.cfg.p + 1
  | .cellTurnaround _ h => OnCell s ∧ h ≠ 0 ∧ s.dec.skipk = .resolved ∧ s.dec.cur = s.dec.skipidx
  | .headerKnown hb => OnHeader s hb ∧ tableRead s.cfg hb ≠ 0
  | .headerDynamic hb => OnHeader s hb ∧ tableRead s.cfg hb = 0
  | .header01 => OnHeader s 0x01
  | .header09 => OnHeader s 0x09
  | .evtCaptureComplete _ => s.bstate = .select
  | .evtCaptureError _ => s.bstate = .select
  | .sinkByte c v =>
    s.bstate = .decode ∧ s.dec.stop = .none ∧ s.dch = c ∧ s.dec.acc = v ∧ s.dec.nb = 8 * (s.dec.len + 1) ∧
      s.dec.len < s.cfg.nbyte
  | .sinkSummary r => s.bstate = .finish ∧ ∀ ch, s.chan? s.dch = some ch → r = reportedSummary s ch.ovr
  | .sinkError c => s.bstate = .select ∧ ∀ ch, s.chan? c = some ch → ch.errsup = false
  | .inFrameStart c => ∀ ch, s.chan? c = some ch → ch.chstate = .armed
  | .inFrameStartCapturing c => ∀ ch, s.chan? c = some ch → ch.chstate = .capturing
  | .inFrameStartOverrun c => ∀ ch, s.chan? c = some ch → ch.chstate = .complete
  | .stepDispatchEntry => s.bstate = .idle ∧ s.status ≠ 0
  | .stepSelect _ => s.bstate = .select
  | .stepDecode => s.bstate = .decode ∧ s.dec.stop = .none
  | .stepDecodeDone => s.bstate = .decode ∧ s.dec.stop ≠ .none
  | .stepFinish => s.bstate = .finish
  | .inCellWrite _ _ _ => True
  | .inCaptureDone _ => True
  | .inCaptureError _ => True
  | .cmdDisableCapture _ => True
  | .cmdResetAndRearm _ => True
  | .stepClockTick => True
  | .stepReset => True

/-- A duty of the capture sources that the instruction would break in this state (R86, R130, R223, D29). -/
def BreaksDuty (s : State) : Instr → Prop
  | .inCellWrite c j _ => ∃ ch, s.chan? c = some ch ∧
      (ch.owner = .sw ∨ ch.chstate ≠ .capturing ∨ ch.stopped = true ∨ j ≠ ch.wpos ∨ s.cfg.ncell ≤ j)
  | .inCaptureDone c => ∃ ch, s.chan? c = some ch ∧ ch.chstate ≠ .capturing
  | .cellSentinel _ | .cellData0 _ _ | .cellData1 _ _ | .cellAnomalous _ _ | .cellInwindow _ _
  | .cellTurnaround _ _ | .headerKnown _ | .headerDynamic _ | .header01 | .header09 | .evtCaptureComplete _
  | .evtCaptureError _ | .cmdDisableCapture _ | .cmdResetAndRearm _ | .sinkByte _ _ | .sinkSummary _ | .sinkError _
  | .inFrameStart _ | .inFrameStartCapturing _ | .inFrameStartOverrun _ | .inCaptureError _ | .stepDispatchEntry
  | .stepSelect _ | .stepDecode | .stepDecodeDone | .stepFinish | .stepClockTick | .stepReset => False

end Sys2Proof.Machine

/-! ## Encodings -/

/-- Every well-formed instruction is decoded back from its own word (30_encoding.md; the packing of commands, records,
inputs and steps is the model's, log entry 7). -/
def Obligations.DecodeInvertsEncode : Prop :=
  ∀ (ctx : DecodeContext) (i : Instr), ctx.wf = true → wellFormed ctx i = true →
    decode ctx i.format (encode ctx.cfg i) = .ok i

/-- The decoder answers only well-formed instructions, and each from its own word only (30_encoding.md; log entry 7). -/
def Obligations.EncodeInvertsDecode : Prop :=
  ∀ (ctx : DecodeContext) (fmt : Format) (w : Word) (i : Instr), decode ctx fmt w = .ok i →
    wellFormed ctx i = true ∧ encode ctx.cfg i = w

/-- Every cell word is of exactly one class, selected by its high ticks alone (R103). -/
def Obligations.CellWordHasOneClass : Prop :=
  ∀ (ctx : DecodeContext) (w : Nat), w < 2 ^ (2 * ctx.cfg.tw) →
    (w / 2 ^ ctx.cfg.tw = 0 → decode ctx .cellWord w = .ok (.cellSentinel (w % 2 ^ ctx.cfg.tw))) ∧
    (1 ≤ w / 2 ^ ctx.cfg.tw → w / 2 ^ ctx.cfg.tw ≤ ctx.cfg.p / 2 →
      decode ctx .cellWord w = .ok (.cellData0 (w % 2 ^ ctx.cfg.tw) (w / 2 ^ ctx.cfg.tw))) ∧
    (ctx.cfg.p / 2 + 1 ≤ w / 2 ^ ctx.cfg.tw →
      decode ctx .cellWord w = .ok (.cellData1 (w % 2 ^ ctx.cfg.tw) (w / 2 ^ ctx.cfg.tw)))

/-- A status bit index names its channel and its kind of event (R112). -/
def Obligations.StatusBitNamesEvent : Prop :=
  ∀ (ctx : DecodeContext) (b : Nat), b < 2 * ctx.cfg.nch →
    (b % 2 = 0 → decode ctx .statusBit b = .ok (.evtCaptureComplete (b / 2))) ∧
    (b % 2 = 1 → decode ctx .statusBit b = .ok (.evtCaptureError (b / 2)))

/-- Words written out from the tables of 30_encoding.md and 95_test_vectors.md decode to what they stand for, at P = 8,
TW = 8, two channels, channel 0 ARMED and channel 1 COMPLETE (the packing of the last five is the model's, log entry 7). -/
def Obligations.WrittenWordsDecode : Prop :=
  let ctx : DecodeContext := { cfg := Config.standard, chstates := [.armed, .complete] }
  decode ctx .cellWord 0x0005 = .ok (.cellSentinel 5) ∧
  decode ctx .cellWord 0x0404 = .ok (.cellData0 4 4) ∧
  decode ctx .cellWord 0x0503 = .ok (.cellData1 3 5) ∧
  decode ctx .cellAttribute 0x1E04 = .ok (.cellAnomalous 4 30) ∧
  decode ctx .cellAttribute 0x0206 = .ok (.cellInwindow 6 2) ∧
  decode ctx .headerByte 0x01 = .ok .header01 ∧
  decode ctx .headerByte 0x09 = .ok .header09 ∧
  decode ctx .headerByte 0x20 = .ok (.headerDynamic 0x20) ∧
  decode ctx .statusBit 3 = .ok (.evtCaptureError 1) ∧
  decode ctx .captureCommand 0b11 = .ok (.cmdResetAndRearm 1) ∧
  decode ctx .sinkRecord 0b10100101100 = .ok (.sinkByte 1 0xA5) ∧
  decode ctx .captureInput 0b000 = .ok (.inFrameStart 0) ∧
  decode ctx .captureInput 0b100 = .ok (.inFrameStartOverrun 1) ∧
  decode ctx .internalStep 0b11001 = .ok (.stepSelect 3)

/-! ## Cell classification -/

/-- The bit of a cell is 1 exactly when twice its high ticks exceed P, which is when they exceed the integer half of P, for
even and odd P alike (R142). -/
def Obligations.BitExceedsHalfPeriod : Prop :=
  ∀ (cfg : Config) (h : Nat),
    (bitOf cfg h = true ↔ 2 * h > cfg.p) ∧ (bitOf cfg h = true ↔ h ≥ cfg.p / 2 + 1)

/-- The duration of a cell word is the exact sum of its two fields, and fits TW + 1 bits (R145). -/
def Obligations.DurationNeverWraps : Prop :=
  ∀ (cfg : Config) (w : Nat),
    dur (cellLow cfg w) (cellHigh cfg w) = w % 2 ^ cfg.tw + w / 2 ^ cfg.tw % 2 ^ cfg.tw ∧
    dur (cellLow cfg w) (cellHigh cfg w) < 2 ^ (cfg.tw + 1)

/-- A non-sentinel cell word is anomalous exactly when its duration is outside the window from P - 1 to P + 1, both ends
included, and in-window otherwise, whatever its class (R104). -/
def Obligations.WindowIsInclusive : Prop :=
  ∀ (ctx : DecodeContext) (w : Nat), w < 2 ^ (2 * ctx.cfg.tw) → w / 2 ^ ctx.cfg.tw ≠ 0 →
    let l := w % 2 ^ ctx.cfg.tw
    let h := w / 2 ^ ctx.cfg.tw
    (l + h < ctx.cfg.p - 1 ∨ l + h > ctx.cfg.p + 1 → decode ctx .cellAttribute w = .ok (.cellAnomalous l h)) ∧
    (ctx.cfg.p - 1 ≤ l + h → l + h ≤ ctx.cfg.p + 1 → decode ctx .cellAttribute w = .ok (.cellInwindow l h))

/-! ## The decoder -/

/-- A sentinel the decoder reaches ends the frame: `STOP` is the only thing written (R174). -/
def Obligations.SentinelEndsFrame : Prop :=
  ∀ (l : Nat) (s : State), s.bstate = .decode → s.dec.stop = .none → s.dec.cur < s.cfg.ncell →
    exec (.cellSentinel l) s = .next { s with dec := { s.dec with stop := .sentinel } }

/-- The decoder step at a sentinel cell writes `STOP` and leaves `CUR` at its index (R174). -/
def Obligations.DecodeStepStopsAtSentinel : Prop :=
  ∀ (s : State) (ch : Channel), s.bstate = .decode → s.dec.stop = .none → s.dec.cur < s.cfg.ncell →
    s.chan? s.dch = some ch → cellHigh s.cfg (cellRead s s.dch s.dec.cur) = 0 →
    exec .stepDecode s = .next { s with dec := { s.dec with stop := .sentinel } }

/-- The decoder step past the end of the capture buffer ends the frame without reading it (R173). -/
def Obligations.DecodeStepStopsAtBufferEnd : Prop :=
  ∀ s : State, s.bstate = .decode → s.dec.stop = .none → s.dec.cur ≥ s.cfg.ncell →
    exec .stepDecode s = .next { s with dec := { s.dec with stop := .noSentinel } }

/-- A data cell that is no turnaround, resolves no header and is in the window gives its bit, and a byte on every eighth
(R186-R188), up to the capacity of the frame buffer (R185). -/
def Obligations.PlainDataCellGivesItsBit : Prop :=
  ∀ (l h : Nat) (s : State) (ch : Channel), s.bstate = .decode → s.dec.stop = .none →
    s.dec.cur < s.cfg.ncell → s.chan? s.dch = some ch → h ≠ 0 → isAnomalous s.cfg l h = false →
    ¬(s.dec.skipk = .pending ∧ s.dec.nb = 8) → ¬(s.dec.skipk = .resolved ∧ s.dec.cur = s.dec.skipidx) →
    exec (if 2 * h > s.cfg.p then .cellData1 l h else .cellData0 l h) s
      = .next (Listing.assemble s s.dec h)

/-- Every data cell is executed, whatever the decoder's state, and writes only what R199 allows; at the turnaround too. -/
def Obligations.DataCellsComplete : Prop :=
  ∀ (l h : Nat) (s : State) (ch : Channel), s.bstate = .decode → s.dec.stop = .none →
    s.dec.cur < s.cfg.ncell → s.chan? s.dch = some ch →
    (1 ≤ h → h ≤ s.cfg.p / 2 → ∃ t, exec (.cellData0 l h) s = .next t ∧ DecoderFrame s t) ∧
    (s.cfg.p / 2 + 1 ≤ h → ∃ t, exec (.cellData1 l h) s = .next t ∧ DecoderFrame s t)

/-- A decoder step is the consolidated listing of 41_frame_decoder.md, section 9, in every state of the decoder. -/
def Obligations.DecodeStepIsConsolidatedListing : Prop :=
  ∀ (s : State) (ch : Channel), s.bstate = .decode → s.dec.stop = .none → s.chan? s.dch = some ch →
    exec .stepDecode s = .next (Listing.decodeStep s)

/-- A decoder step executes the instruction that the cell word at `CUR` decodes to. -/
def Obligations.DecodeStepExecutesFetchedCell : Prop :=
  ∀ (s : State) (ch : Channel), s.StoresInRange → s.bstate = .decode → s.dec.stop = .none →
    s.dec.cur < s.cfg.ncell → s.chan? s.dch = some ch →
    ∃ i, decode s.context .cellWord (cellRead s s.dch s.dec.cur) = .ok i ∧ exec .stepDecode s = exec i s

/-- A decoder step writes only the decoder registers, `FB[LEN]` and the sink (R199), so never a capture buffer (R87). -/
def Obligations.DecodeStepWritesOnlyItsOwn : Prop :=
  ∀ s t : State, exec .stepDecode s = .next t → DecoderFrame s t

/-- A decoder step reads only `CB[DCH]`, `CLT`, `FB[0]`, `P` and the decoder registers (R199): two states that agree on
them, whatever else their channels hold, go to the same decoder registers, write the same byte at `FB[LEN]` or none, and
emit the same records. -/
def Obligations.DecodeStepReadsOnlyItsOwn : Prop :=
  ∀ s u t : State, s.cfg = u.cfg → s.dec = u.dec → s.bstate = u.bstate → s.dch = u.dch →
    (s.chan? s.dch).isSome = (u.chan? u.dch).isSome →
    (∀ j < s.cfg.ncell, cellRead s s.dch j = cellRead u u.dch j) → frameRead s 0 = frameRead u 0 →
    exec .stepDecode s = .next t →
    ∃ v, exec .stepDecode u = .next v ∧ v.dec = t.dec ∧
      (∃ rs, t.sink = s.sink ++ rs ∧ v.sink = u.sink ++ rs) ∧
      ((t.fb = s.fb ∧ v.fb = u.fb) ∨
        ∃ b, t.fb = s.fb.write s.dec.len b ∧ v.fb = u.fb.write s.dec.len b)

/-- Every decoder step ends the frame or moves the cursor on, and a frame takes at most NCELL + 1 decoder steps (R200). -/
def Obligations.FrameIsBounded : Prop :=
  ∀ (s : State) (ch : Channel), s.bstate = .decode → s.dec.stop = .none → s.chan? s.dch = some ch →
    (∃ t, exec .stepDecode s = .next t ∧ (t.dec.stop ≠ .none ∨ s.dec.cur + 1 ≤ t.dec.cur)) ∧
    (∃ t, decodeRun (s.cfg.ncell + 1) s = .next t ∧ t.dec.stop ≠ .none)

/-- An anomalous cell is recorded at its cell index, and becomes the boundary only where the header left it open
(R178-R180). -/
def Obligations.AnomalyIsRecorded : Prop :=
  ∀ (l h : Nat) (s : State), s.bstate = .decode → s.dec.stop = .none → s.dec.cur < s.cfg.ncell → h ≠ 0 →
    (l + h < s.cfg.p - 1 ∨ l + h > s.cfg.p + 1) →
    exec (.cellAnomalous l h) s =
      .next { s with
        dec := { s.dec with
          anomv := true
          anomidx := s.dec.cur
          skipk := if s.dec.skipk = .unresolved then .resolved else s.dec.skipk
          skipidx := if s.dec.skipk = .unresolved then s.dec.cur else s.dec.skipidx } }

/-- An in-window cell records nothing (R147). -/
def Obligations.InWindowCellRecordsNothing : Prop :=
  ∀ (l h : Nat) (s : State), s.bstate = .decode → s.dec.stop = .none → s.dec.cur < s.cfg.ncell → h ≠ 0 →
    s.cfg.p - 1 ≤ l + h → l + h ≤ s.cfg.p + 1 → exec (.cellInwindow l h) s = .next s

/-- The turnaround cell is passed without a bit, whatever data cell it is, and the cell after it is checked for the buffer
end and for the sentinel, in this order (R183, R184). -/
def Obligations.TurnaroundIsPassed : Prop :=
  ∀ (l h : Nat) (s : State) (ch : Channel), s.bstate = .decode → s.dec.stop = .none →
    s.dec.cur < s.cfg.ncell → s.chan? s.dch = some ch → s.dec.skipk = .resolved →
    s.dec.cur = s.dec.skipidx → h ≠ 0 →
    exec (.cellTurnaround l h) s =
      .next { s with
        dec := { s.dec with
          tataken := true
          cur := s.dec.cur + 1
          stop :=
            if s.dec.cur + 1 ≥ s.cfg.ncell then .noSentinel
            else if cellHigh s.cfg (cellRead s s.dch (s.dec.cur + 1)) = 0 then .sentinel
            else .none } }

/-- The cell after the turnaround is not tested for anomaly: the record at the end of the step depends on the cell at `CUR`
alone (R181). -/
def Obligations.CellAfterTurnaroundIsNotTested : Prop :=
  ∀ (s t : State) (ch : Channel), s.bstate = .decode → s.dec.stop = .none → s.dec.cur < s.cfg.ncell →
    s.chan? s.dch = some ch → cellHigh s.cfg (cellRead s s.dch s.dec.cur) ≠ 0 →
    exec .stepDecode s = .next t →
    let w := cellRead s s.dch s.dec.cur
    let anomalous := isAnomalous s.cfg (cellLow s.cfg w) (cellHigh s.cfg w)
    t.dec.anomv = (s.dec.anomv || anomalous) ∧
    t.dec.anomidx = if anomalous then s.dec.cur else s.dec.anomidx

/-- The header byte's table entry `k` is looked up: if it is not zero the turnaround stands at cell `8*k`, and if it is zero
the turnaround is left to be found (R177). -/
def Obligations.HeaderEntrySetsBoundary : Prop :=
  ∀ (hb : Byte) (s : State), s.bstate = .decode → s.dec.stop = .none → s.dec.skipk = .pending →
    s.dec.nb = 8 → frameRead s 0 = hb →
    (tableRead s.cfg hb ≠ 0 →
      exec (.headerKnown hb) s =
        .next { s with dec := { s.dec with skipk := .resolved, skipidx := 8 * (tableRead s.cfg hb).toNat } }) ∧
    (tableRead s.cfg hb = 0 →
      exec (.headerDynamic hb) s = .next { s with dec := { s.dec with skipk := .unresolved } })

/-- Header `0x01` puts the turnaround at cell 8 and header `0x09` at cell 24, in every configuration (R109). -/
def Obligations.DocumentedHeadersSetBoundary : Prop :=
  ∀ s : State, s.bstate = .decode → s.dec.stop = .none → s.dec.skipk = .pending → s.dec.nb = 8 →
    (frameRead s 0 = 0x01 →
      exec .header01 s = .next { s with dec := { s.dec with skipk := .resolved, skipidx := 8 } }) ∧
    (frameRead s 0 = 0x09 →
      exec .header09 s = .next { s with dec := { s.dec with skipk := .resolved, skipidx := 24 } })

/-- A completed byte is written at `FB[LEN]`, emitted and counted, and the accumulator is cleared (R187); every other byte of
the frame buffer reads as before. -/
def Obligations.CompletedByteIsEmitted : Prop :=
  ∀ (s : State), s.bstate = .decode → s.dec.stop = .none → s.dec.nb = 8 * (s.dec.len + 1) →
    s.dec.len < s.cfg.nbyte →
    ∃ t, exec (.sinkByte s.dch s.dec.acc) s = .next t ∧
      t = { s with
        fb := t.fb
        sink := s.sink ++ [.byte s.dch s.dec.acc]
        dec := { s.dec with len := s.dec.len + 1, acc := 0 } } ∧
      frameRead t s.dec.len = s.dec.acc ∧ ∀ j, j ≠ s.dec.len → frameRead t j = frameRead s j

/-- The first data bit of a byte becomes bit 7, the eighth becomes bit 0 (R77). -/
def Obligations.BytesAssembleMsbFirst : Prop :=
  ∀ bits : List Bool, bits.length = 8 →
    ∀ k < 8, (bits.foldl shiftIn (0 : Byte)).getLsbD (7 - k) = bits.getD k false

/-- A frame that has ended is due for its summary (R231). -/
def Obligations.DecodeDoneMovesToFinish : Prop :=
  ∀ s : State, s.bstate = .decode → s.dec.stop ≠ .none →
    exec .stepDecodeDone s = .next { s with bstate := .finish }

/-! ## The capture sources' inputs -/

/-- `frameStart c` arms, changes nothing, or counts a lost frame, by the channel's capture state (R221, R222, R240). -/
def Obligations.FrameStartByCaptureState : Prop :=
  ∀ (c : Nat) (s : State) (ch : Channel), s.chan? c = some ch →
    (ch.chstate = .armed →
      exec (.inFrameStart c) s =
        .next { s with channels := s.channels.set c { ch with chstate := .capturing } }) ∧
    (ch.chstate = .capturing → exec (.inFrameStartCapturing c) s = .next s) ∧
    (ch.chstate = .complete →
      exec (.inFrameStartOverrun c) s =
        .next { s with channels := s.channels.set c { ch with ovr := min (ch.ovr + 1) (2 ^ s.cfg.ow - 1) } })

/-- A cell write of a capture source that keeps its duties is what a read of that cell then gives; every other cell of every
channel reads as before, the source's write position moves on, and no other register changes (R223, R71; the write position
is log entry 14). -/
def Obligations.CellWriteIsRead : Prop :=
  ∀ (c i : Nat) (v : Word) (s : State) (ch : Channel), s.chan? c = some ch → ch.owner = .hw →
    ch.chstate = .capturing → ch.stopped = false → i = ch.wpos → i < s.cfg.ncell →
    ∃ t, exec (.inCellWrite c i v) s = .next t ∧ cellRead t c i = v ∧
      (∀ d j, ¬(d = c ∧ j = i) → cellRead t d j = cellRead s d j) ∧
      ∃ cb, t = { s with channels := s.channels.set c { ch with cb := cb, wpos := i + 1 } }

/-- A capture source that would break a duty has no step: a write of a buffer it does not own or outside a capture, and a
capture-done outside a capture (R86); a write past the buffer's end (R223). The stop after DISABLE_CAPTURE (R130) and the
index order (R223, D29) are duties as the model holds them, in the stop flag and the write position (log entries 8 and
14). -/
def Obligations.CaptureDutiesAreKept : Prop :=
  ∀ (c i : Nat) (v : Word) (s : State) (ch : Channel), s.chan? c = some ch →
    (ch.owner = .sw ∨ ch.chstate ≠ .capturing ∨ ch.stopped = true ∨ i ≠ ch.wpos ∨ s.cfg.ncell ≤ i →
      exec (.inCellWrite c i v) s = .refused .captureDuty) ∧
    (ch.chstate ≠ .capturing → exec (.inCaptureDone c) s = .refused .captureDuty)

/-- Capture done completes the capture and sets `STATUS[2c]`, and no other status bit; while the channel is COMPLETE its
capture source writes no cell, and COMPLETE lasts until the finish step of R232, which re-arms it, or reset (R224). -/
def Obligations.CaptureDoneSetsPending : Prop :=
  (∀ (c : Nat) (s : State) (ch : Channel), s.chan? c = some ch → ch.chstate = .capturing →
    ∃ t, exec (.inCaptureDone c) s = .next t ∧
      t = { s with status := t.status, channels := s.channels.set c { ch with chstate := .complete } } ∧
      (∀ b, t.status.testBit b = (s.status.testBit b || b == 2 * c))) ∧
  (∀ (c : Nat) (s : State) (ch : Channel), s.chan? c = some ch → ch.chstate = .complete →
    (∀ j v, exec (.inCellWrite c j v) s = .refused .captureDuty) ∧
    ∀ (i : Instr) (t : State), exec i s = .next t →
      (∃ ch', t.chan? c = some ch' ∧ ch'.chstate = .complete) ∨
      (s.dch = c ∧ (i = .stepFinish ∨ ∃ r, i = .sinkSummary r)) ∨ i = .stepReset)

/-- A capture error sets `STATUS[2c+1]` unless the channel's errors are suppressed, in any capture state, and changes nothing
else (R225). -/
def Obligations.CaptureErrorSetsPendingUnlessSuppressed : Prop :=
  ∀ (c : Nat) (s : State) (ch : Channel), s.chan? c = some ch →
    ∃ t, exec (.inCaptureError c) s = .next t ∧ t = { s with status := t.status } ∧
      ∀ b, t.status.testBit b = (s.status.testBit b || (!ch.errsup && b == 2 * c + 1))

/-! ## Dispatch -/

/-- Dispatch entry takes the snapshot and starts selecting (R226). -/
def Obligations.DispatchEntryTakesSnapshot : Prop :=
  ∀ s : State, s.bstate = .idle → s.status ≠ 0 →
    exec .stepDispatchEntry s = .next { s with work := s.status, bstate := .select }

/-- An exhausted snapshot ends the invocation, and restores nothing (R227, R273). -/
def Obligations.ExhaustedSnapshotEndsInvocation : Prop :=
  ∀ (b : Nat) (s : State), s.bstate = .select → s.work = 0 →
    exec (.stepSelect b) s = .next { s with bstate := .idle }

/-- A select step that chooses `CC[c]` clears it in both words and does the capture-complete entry (R227, R229, R171). That
the capture source is then stopped is R130's command as the model holds it (log entry 8). -/
def Obligations.SelectStartsFrame : Prop :=
  ∀ (c : Nat) (s : State) (ch : Channel), s.bstate = .select → c < s.cfg.nch →
    s.chan? c = some ch → s.work.testBit (2 * c) = true →
    ∃ t, exec (.stepSelect (2 * c)) s = .next t ∧
      (∀ b, t.work.testBit b = (s.work.testBit b && b != 2 * c)) ∧
      (∀ b, t.status.testBit b = (s.status.testBit b && b != 2 * c)) ∧
      t = { s with
        work := t.work
        status := t.status
        commands := s.commands ++ [{ op := .disableCapture, ch := c }]
        channels := s.channels.set c { ch with stopped := true, owner := .sw, gap := 0 }
        gaprec := ch.gap
        dch := c
        dec := { cur := 0, nb := 0, acc := 0, len := 0, skipk := .pending, skipidx := 0, anomv := false
                 anomidx := 0, tataken := false, stop := .none }
        bstate := .decode }

/-- A select step that chooses `ERR[c]` clears it in both words, and reports the error unless it was reported before
(R227, R233). -/
def Obligations.SelectReportsError : Prop :=
  ∀ (c : Nat) (s : State) (ch : Channel), s.bstate = .select → c < s.cfg.nch →
    s.chan? c = some ch → s.work.testBit (2 * c + 1) = true →
    ∃ t, exec (.stepSelect (2 * c + 1)) s = .next t ∧
      (∀ b, t.work.testBit b = (s.work.testBit b && b != 2 * c + 1)) ∧
      (∀ b, t.status.testBit b = (s.status.testBit b && b != 2 * c + 1)) ∧
      t = { s with
        work := t.work
        status := t.status
        channels := s.channels.set c { ch with errsup := true }
        sink := if ch.errsup then s.sink else s.sink ++ [.error c] }

/-- Whatever `dispatchOrder` names, a select step with a pending bit chooses and clears exactly one bit of the snapshot; and
every pending bit is the choice of some order (R227, R270). -/
def Obligations.EveryDispatchOrderIsAdmitted : Prop :=
  ∀ (b : Nat) (s : State), s.RegistersFit → s.bstate = .select → s.work ≠ 0 →
    ∃ j t, s.work.testBit j = true ∧ exec (.stepSelect b) s = .next t ∧
      (∀ k, t.work.testBit k = (s.work.testBit k && k != j)) ∧
      (∀ k, t.status.testBit k = (s.status.testBit k && k != j)) ∧
      (s.work.testBit b = true → j = b)

/-- The capture-complete entry (R229, R171): disable, take ownership, latch and clear the gap, start the frame, decode. -/
def Obligations.CaptureCompleteEntry : Prop :=
  ∀ (c : Nat) (s : State) (ch : Channel), s.bstate = .select → s.chan? c = some ch →
    exec (.evtCaptureComplete c) s =
      .next { s with
        commands := s.commands ++ [{ op := .disableCapture, ch := c }]
        channels := s.channels.set c { ch with stopped := true, owner := .sw, gap := 0 }
        gaprec := ch.gap
        dch := c
        dec := { cur := 0, nb := 0, acc := 0, len := 0, skipk := .pending, skipidx := 0, anomv := false
                 anomidx := 0, tataken := false, stop := .none }
        bstate := .decode }

/-- HandleError latches the suppression and reports once (R233): the event's row in both cases, and the ERROR record's row
where a record is emitted. -/
def Obligations.ErrorHandlerReportsOnce : Prop :=
  ∀ (c : Nat) (s : State) (ch : Channel), s.bstate = .select → s.chan? c = some ch →
    (ch.errsup = true → exec (.evtCaptureError c) s = .next s) ∧
    (ch.errsup = false →
      exec (.evtCaptureError c) s =
        .next { s with
          channels := s.channels.set c { ch with errsup := true }
          sink := s.sink ++ [.error c] } ∧
      exec (.sinkError c) s =
        .next { s with
          channels := s.channels.set c { ch with errsup := true }
          sink := s.sink ++ [.error c] })

/-- The finish step, and so the row of the SUMMARY record it emits: the summary of R122, the hand-back, the command, the
channel ARMED, its capture source at index 0 again (R130, R237), selecting again (R232). The store's relabelling, the draw
and the stop flag are the model's (log entries 4 and 8). -/
def Obligations.FinishReportsAndHandsBack : Prop :=
  ∀ (s : State) (ch : Channel), s.bstate = .finish → s.chan? s.dch = some ch →
    ∃ t, exec .stepFinish s = .next t ∧ exec (.sinkSummary (reportedSummary s ch.ovr)) s = .next t ∧
      t = { s with
        sink := s.sink ++ [.summary (reportedSummary s ch.ovr)]
        commands := s.commands ++ [{ op := .resetAndRearm, ch := s.dch }]
        channels := s.channels.set s.dch
          { ch with
            owner := .hw
            chstate := .armed
            stopped := false
            wpos := 0
            cb := ch.cb.map (fun e => (e.1, { word := e.2.word, fresh := false }))
            draw := ch.draw + 1 }
        bstate := .select }

/-- The capture commands as the capture source takes them (R130). DISABLE_CAPTURE stops it, a stopped source writes no cell,
and it stays stopped until RESET_AND_REARM of that channel, alone or in the finish step, or reset. RESET_AND_REARM puts its
write position at index 0, where alone it may then write, and keeps every cell's word (R237). The stop flag, the draw and
the write position are log entries 8, 4 and 14. -/
def Obligations.CommandsReachTheCaptureSource : Prop :=
  (∀ (c : Nat) (s : State) (ch : Channel), s.chan? c = some ch →
    exec (.cmdDisableCapture c) s =
      .next { s with
        commands := s.commands ++ [{ op := .disableCapture, ch := c }]
        channels := s.channels.set c { ch with stopped := true } } ∧
    ∃ t ch', exec (.cmdResetAndRearm c) s = .next t ∧
      t = { s with
        commands := s.commands ++ [{ op := .resetAndRearm, ch := c }]
        channels := s.channels.set c ch' } ∧
      ch' = { ch with stopped := false, wpos := 0, cb := ch'.cb, draw := ch.draw + 1 } ∧
      (∀ j, storedWord ch' j = storedWord ch j) ∧
      (∀ j v, j ≠ 0 → exec (.inCellWrite c j v) t = .refused .captureDuty) ∧
      (ch.owner = .hw → ch.chstate = .capturing → 0 < s.cfg.ncell →
        ∀ v, ∃ u, exec (.inCellWrite c 0 v) t = .next u)) ∧
  (∀ (c : Nat) (s : State) (ch : Channel), s.chan? c = some ch → ch.stopped = true →
    (∀ j v, exec (.inCellWrite c j v) s = .refused .captureDuty) ∧
    ∀ (i : Instr) (t : State), exec i s = .next t →
      (∃ ch', t.chan? c = some ch' ∧ ch'.stopped = true) ∨
      i = .cmdResetAndRearm c ∨
      (s.dch = c ∧ (i = .stepFinish ∨ ∃ r, i = .sinkSummary r)) ∨ i = .stepReset)

/-! ## Clock and reset -/

/-- A clock tick adds one to every gap counter modulo 2^GW, and changes nothing else (R238). -/
def Obligations.TickCountsEveryGap : Prop :=
  ∀ s : State, ∃ t, exec .stepClockTick s = .next t ∧ t = { s with channels := t.channels } ∧
    ∀ c, t.chan? c = (s.chan? c).map (fun ch => { ch with gap := (ch.gap + 1) % 2 ^ s.cfg.gw })

/-- Reset sets every register to its reset value in any state, leaves the configuration, emits no record and issues no
command (R300). -/
def Obligations.ResetSetsEveryRegister : Prop :=
  ∀ s : State, ∃ t, exec .stepReset s = .next t ∧
    t.cfg = s.cfg ∧ t.sink = s.sink ∧ t.commands = s.commands ∧
    t.status = 0 ∧ t.bstate = .idle ∧ t.work = 0 ∧ t.dch = 0 ∧ t.gaprec = 0 ∧
    t.dec = { cur := 0, nb := 0, acc := 0, len := 0, skipk := .pending, skipidx := 0, anomv := false
              anomidx := 0, tataken := false, stop := .none } ∧
    t.channels.length = s.channels.length ∧
    ∀ c ch, t.chan? c = some ch →
      ch.errsup = false ∧ ch.chstate = .armed ∧ ch.owner = .hw ∧ ch.gap = 0 ∧ ch.ovr = 0

/-- The state after reset of any configuration, register by register (R301), every capture source ready to write from index
0 (R304; log entries 8 and 14). -/
def Obligations.StateAfterReset : Prop :=
  ∀ cfg : Config,
    let s := State.resetWith cfg
    s.cfg = cfg ∧ s.status = 0 ∧ s.bstate = .idle ∧ s.work = 0 ∧ s.dch = 0 ∧ s.gaprec = 0 ∧
    s.dec.cur = 0 ∧ s.dec.nb = 0 ∧ s.dec.len = 0 ∧ s.dec.acc = 0x00 ∧
    s.dec.skipk = .pending ∧ s.dec.skipidx = 0 ∧ s.dec.anomv = false ∧ s.dec.anomidx = 0 ∧
    s.dec.tataken = false ∧ s.dec.stop = .none ∧ (∀ j, s.fb.read j = none) ∧
    ∀ c, c < cfg.nch → ∃ ch, s.chan? c = some ch ∧ ch.errsup = false ∧ ch.chstate = .armed ∧
      ch.owner = .hw ∧ ch.gap = 0 ∧ ch.ovr = 0 ∧ (∀ i, ch.cb.read i = none) ∧
      ch.stopped = false ∧ ch.wpos = 0

/-! ## The machine -/

/-- A step executes the instruction whose turn it is: the one the turn's word decodes to, or on the block's own turn the one
its state selects (R226, R227, R231, R232), once the turn is taken from the agenda; a block with nothing to do holds its
state (R281). On an empty agenda it is the block's turn, some bit being named in a select step. The agenda and the count of
the choices are the model's (log entries 9 and 6). -/
def Obligations.StepExecutesTheTurn : Prop :=
  (∀ (s : State) (fmt : Format) (w : Word) (rest : List Turn) (i : Instr),
    s.agenda = .packet fmt w :: rest → decode s.context fmt w = .ok i →
    step s = exec i { s with agenda := rest }) ∧
  (∀ (s : State) (b : Nat) (rest : List Turn), s.agenda = .pwd b :: rest →
    step s =
      match s.bstate with
      | .idle =>
        if s.status = 0 then .next { s with agenda := rest }
        else exec .stepDispatchEntry { s with agenda := rest }
      | .select => exec (.stepSelect (b % (2 * s.cfg.nch))) { s with agenda := rest }
      | .decode =>
        if s.dec.stop = .none then exec .stepDecode { s with agenda := rest }
        else exec .stepDecodeDone { s with agenda := rest }
      | .finish => exec .stepFinish { s with agenda := rest }) ∧
  (∀ s : State, s.agenda = [] →
    match s.bstate with
    | .idle =>
      if s.status = 0 then step s = .next s
      else step s = exec .stepDispatchEntry { s with choices := s.choices + 1 }
    | .select =>
      ∃ b, step s = exec (.stepSelect (b % (2 * s.cfg.nch))) { s with choices := s.choices + 1 }
    | .decode =>
      if s.dec.stop = .none then step s = exec .stepDecode { s with choices := s.choices + 1 }
      else step s = exec .stepDecodeDone { s with choices := s.choices + 1 }
    | .finish => step s = exec .stepFinish { s with choices := s.choices + 1 })

/-- Every way an instruction can stop, and when: a fault only where a channel does not exist, a refusal only where a capture
source would break a duty or where the row's select condition does not hold. The commands, the clock and reset have no such
condition, so they are never refused (R260; the refusals are the model's, log entry 11). -/
def Obligations.EveryStopIsNamed : Prop :=
  ∀ (i : Instr) (s : State),
    (∀ f, exec i s = .fault f → ∃ c, f = .noSuchChannel c ∧ s.chan? c = none) ∧
    (∀ r, exec i s = .refused r →
      (r = .captureDuty ∧ BreaksDuty s i) ∨ (r = .notSelected ∧ ¬Selects s i))

/-- The invariant holds after reset, in every configuration the spec allows. -/
def Obligations.ResetMeetsTheInvariant : Prop :=
  ∀ cfg : Config, cfg.wf = true → (State.resetWith cfg).Inv

/-- Every step keeps the invariant (R57 and R11, R12, R72, R235): from every state that meets it, whatever turns of whole
steps its agenda holds. -/
def Obligations.StepKeepsTheInvariant : Prop :=
  ∀ s t : State, s.Inv → step s = .next t → t.Inv

/-- Every step keeps the stores in canonical form, from every state whatever. -/
def Obligations.StepKeepsStoresCanonical : Prop :=
  ∀ s t : State, s.StoresCanonical → step s = .next t → t.StoresCanonical

/-- No condition stops the block: on its own turns it always goes on (R260). -/
def Obligations.BlockNeverStops : Prop :=
  ∀ s : State, s.Inv → (s.agenda = [] ∨ ∃ b rest, s.agenda = .pwd b :: rest) → ∃ t, step s = .next t

/-- Nothing but reset clears the suppression latch, and while it is set no ERROR record of that channel is emitted
(R35, R264). -/
def Obligations.SuppressedErrorsStaySuppressed : Prop :=
  ∀ (i : Instr) (s t : State) (c : Nat) (ch : Channel), s.chan? c = some ch → ch.errsup = true →
    i ≠ .stepReset → exec i s = .next t →
    (∃ ch', t.chan? c = some ch' ∧ ch'.errsup = true) ∧
    t.sink.count (.error c) = s.sink.count (.error c)

/-- A capture buffer's words are written only by its capture source's cell write while the capture source owns it, and made
unspecified only by reset (R230, R87). -/
def Obligations.CaptureBufferWrittenOnlyByItsOwner : Prop :=
  ∀ (i : Instr) (s t : State) (c : Nat) (ch ch' : Channel), s.chan? c = some ch → t.chan? c = some ch' →
    exec i s = .next t →
    (∀ j, storedWord ch' j = storedWord ch j) ∨
    (∃ j v, i = .inCellWrite c j v ∧ ch.owner = .hw ∧ ch.chstate = .capturing) ∨
    i = .stepReset

/-- A buffer changes hands only together with the matching capture command, or at reset (R83). -/
def Obligations.OwnershipMovesWithItsCommand : Prop :=
  ∀ (i : Instr) (s t : State) (c : Nat) (ch ch' : Channel), s.chan? c = some ch → t.chan? c = some ch' →
    exec i s = .next t →
    (ch.owner = .hw → ch'.owner = .sw → t.commands = s.commands ++ [{ op := .disableCapture, ch := c }]) ∧
    (ch.owner = .sw → ch'.owner = .hw →
      t.commands = s.commands ++ [{ op := .resetAndRearm, ch := c }] ∨ i = .stepReset)

/-- The channel capture state goes from ARMED to CAPTURING on a frame start, to COMPLETE on capture done, to ARMED when the
finish step hands the buffer back, and nowhere else, but for reset (R36). -/
def Obligations.CaptureStateCycle : Prop :=
  ∀ (i : Instr) (s t : State) (c : Nat) (ch ch' : Channel), s.Inv → s.chan? c = some ch →
    t.chan? c = some ch' → exec i s = .next t → i ≠ .stepReset →
    ch'.chstate = ch.chstate ∨
    (ch.chstate = .armed ∧ ch'.chstate = .capturing ∧ i = .inFrameStart c) ∨
    (ch.chstate = .capturing ∧ ch'.chstate = .complete ∧ i = .inCaptureDone c) ∨
    (ch.chstate = .complete ∧ ch'.chstate = .armed ∧ s.bstate = .finish ∧ s.dch = c ∧
      (i = .stepFinish ∨ ∃ r, i = .sinkSummary r))

/-- An overrun counter never falls, but for reset (R39). -/
def Obligations.OverrunCounterNeverFalls : Prop :=
  ∀ (i : Instr) (s t : State) (c : Nat) (ch ch' : Channel), s.RegistersFit → s.chan? c = some ch →
    t.chan? c = some ch' → exec i s = .next t → i ≠ .stepReset →
    ch.ovr ≤ ch'.ovr

/-- Only the dispatcher's own transitions change `BSTATE` (R41, R272, R273): no handler is abandoned but by reset, no
invocation starts inside another, and none ends before its snapshot is exhausted (R227). -/
def Obligations.DispatcherTransitions : Prop :=
  ∀ (i : Instr) (s t : State), exec i s = .next t → i ≠ .stepReset →
    t.bstate = s.bstate ∨
    (s.bstate = .idle ∧ t.bstate = .select ∧ t.work = s.status) ∨
    (s.bstate = .select ∧ t.bstate = .idle ∧ (s.work < 2 ^ (2 * s.cfg.nch) → s.work = 0)) ∨
    (s.bstate = .select ∧ t.bstate = .decode) ∨
    (s.bstate = .decode ∧ t.bstate = .finish ∧ s.dec.stop ≠ .none) ∨
    (s.bstate = .finish ∧ t.bstate = .select)

/-- From a frame's start to its SUMMARY no ERROR record is emitted, and the sink only receives (R241, R125). -/
def Obligations.NoErrorRecordInsideFrame : Prop :=
  ∀ (i : Instr) (s t : State), exec i s = .next t →
    ∃ rs, t.sink = s.sink ++ rs ∧
      (s.bstate = .decode ∨ s.bstate = .finish → ∀ c, Record.error c ∉ rs)

/-- Only a dispatch entry puts a bit into the snapshot: an event that becomes pending during an invocation waits for the next
one (R228, R273). -/
def Obligations.SnapshotOnlyShrinks : Prop :=
  ∀ (i : Instr) (s t : State), exec i s = .next t → i ≠ .stepDispatchEntry →
    ∀ b, t.work.testBit b = true → s.work.testBit b = true

/-- No rule of any agent changes the configuration (R14). -/
def Obligations.ConfigurationIsStatic : Prop :=
  ∀ (i : Instr) (s t : State), exec i s = .next t → t.cfg = s.cfg

/-- A SUMMARY reports the bytes of the BYTE records that stand right before it at the sink, in their order (R241), each of
them standing written in the frame buffer, never an unspecified one (R53, R303). -/
def Obligations.SummaryReportsWrittenBytes : Prop :=
  ∀ (s t : State) (ch : Channel), s.Inv → s.bstate = .finish → s.chan? s.dch = some ch →
    exec .stepFinish s = .next t →
    ∃ before r, s.sink = before ++ r.bytes.map (.byte s.dch) ∧ t.sink = s.sink ++ [.summary r] ∧
      r.bytes.length = s.dec.len ∧ r.len = s.dec.nb / 8 ∧ r.len ≤ s.cfg.nbyte ∧
      ∀ j < s.dec.len, s.fb.read j = r.bytes[j]?
end

