-- ==== Sys2Proof/Laws/Memory.lean ====
section
/-!
SUPPORT. The laws of a canonical store: what a read gives after a write, that a write and a relabelling keep the canonical
form, and that two canonical stores with the same reads are the same list.
-/

namespace Sys2Proof.Machine.Memory

variable {α β : Type}

@[simp] theorem read_nil (a : Nat) : Memory.read ([] : Memory α) a = none := rfl

theorem read_cons (b : Nat) (v : α) (m : Memory α) (a : Nat) :
    Memory.read ((b, v) :: m) a = if a = b then some v else Memory.read m a := rfl

/-- A read after a write to the same index gives the element written. -/
@[simp] theorem read_write_same (m : Memory α) (a : Nat) (v : α) : (m.write a v).read a = some v := by
  induction m with
  | nil => simp [Memory.write, Memory.read]
  | cons e m ih =>
    obtain ⟨b, u⟩ := e
    simp only [Memory.write]
    split
    · simp [Memory.read]
    · split
      · simp [Memory.read]
      · simp [Memory.read, *]

/-- A write leaves every other index alone. -/
theorem read_write_other (m : Memory α) (a b : Nat) (v : α) (h : b ≠ a) : (m.write a v).read b = m.read b := by
  induction m with
  | nil => simp [Memory.write, Memory.read, h]
  | cons e m ih =>
    obtain ⟨d, u⟩ := e
    simp only [Memory.write]
    split
    · simp [Memory.read, h]
    · split
      · next he => subst he; simp [Memory.read, h]
      · simp [Memory.read, ih]

theorem read_write (m : Memory α) (a b : Nat) (v : α) :
    (m.write a v).read b = if b = a then some v else m.read b := by
  split
  · next h => subst h; simp
  · next h => exact read_write_other m a b v h

/-- The elements of a store after a write are the new one and old ones. -/
theorem mem_write {m : Memory α} {a : Nat} {v : α} {e : Nat × α} (h : e ∈ m.write a v) : e = (a, v) ∨ e ∈ m := by
  induction m with
  | nil => simpa [Memory.write] using h
  | cons d m ih =>
    obtain ⟨b, u⟩ := d
    simp only [Memory.write] at h
    split at h
    · simpa [or_assoc] using h
    · split at h
      · simp only [List.mem_cons] at h ⊢; tauto
      · simp only [List.mem_cons] at h ⊢
        rcases h with h | h
        · tauto
        · rcases ih h with h | h <;> tauto

theorem wf_nil : Memory.wf ([] : Memory α) := List.Pairwise.nil

/-- A write keeps the canonical form. -/
theorem wf_write {m : Memory α} (h : m.wf) (a : Nat) (v : α) : (m.write a v).wf := by
  induction m with
  | nil => simp [Memory.write, Memory.wf]
  | cons e m ih =>
    obtain ⟨b, u⟩ := e
    have hm : Memory.wf m := (List.pairwise_cons.1 h).2
    have hb : ∀ x ∈ m, b < x.1 := (List.pairwise_cons.1 h).1
    simp only [Memory.write]
    split
    · next hab =>
      refine List.pairwise_cons.2 ⟨fun x hx => ?_, h⟩
      rcases List.mem_cons.1 hx with rfl | hx
      · exact hab
      · exact lt_trans hab (hb x hx)
    · split
      · next he => subst he; exact List.pairwise_cons.2 ⟨hb, hm⟩
      · next h1 h2 =>
        refine List.pairwise_cons.2 ⟨fun x hx => ?_, ih hm⟩
        rcases mem_write hx with rfl | hx
        · show b < a; omega
        · exact hb x hx

/-- Relabelling the elements keeps the canonical form. -/
theorem wf_map {m : Memory α} (h : m.wf) (f : Nat × α → β) : Memory.wf (m.map (fun e => (e.1, f e))) :=
  List.pairwise_map.2 h

/-- A read finds only listed elements. -/
theorem mem_of_read {m : Memory α} {a : Nat} {v : α} (h : m.read a = some v) : (a, v) ∈ m := by
  induction m with
  | nil => simp at h
  | cons e m ih =>
    obtain ⟨b, u⟩ := e
    rw [read_cons] at h
    split at h
    · next hb => subst hb; simp_all
    · exact List.mem_cons_of_mem _ (ih h)

/-- In a canonical store every listed element is the one a read finds. -/
theorem read_of_mem {m : Memory α} (h : m.wf) {a : Nat} {v : α} (hm : (a, v) ∈ m) : m.read a = some v := by
  induction m with
  | nil => simp at hm
  | cons e m ih =>
    obtain ⟨b, u⟩ := e
    have hw := List.pairwise_cons.1 h
    rcases List.mem_cons.1 hm with he | hm
    · cases he; simp [read_cons]
    · have hne : a ≠ b := by have := hw.1 _ hm; simp at this; omega
      rw [read_cons, if_neg hne]; exact ih hw.2 hm

end Sys2Proof.Machine.Memory
end

