-- ==== Sys2Proof/Laws/State.lean ====
section
/-!
SUPPORT. Each field of the state after each named update of it: the one field (or fields) the update writes, and every
other field as before.
-/

namespace Sys2Proof.Machine

/-! ### emit -/

@[simp] theorem emit_cfg (r : Record) (s : State) : (emit r s).cfg = s.cfg := rfl
@[simp] theorem emit_channels (r : Record) (s : State) : (emit r s).channels = s.channels := rfl
@[simp] theorem emit_status (r : Record) (s : State) : (emit r s).status = s.status := rfl
@[simp] theorem emit_bstate (r : Record) (s : State) : (emit r s).bstate = s.bstate := rfl
@[simp] theorem emit_work (r : Record) (s : State) : (emit r s).work = s.work := rfl
@[simp] theorem emit_dch (r : Record) (s : State) : (emit r s).dch = s.dch := rfl
@[simp] theorem emit_gaprec (r : Record) (s : State) : (emit r s).gaprec = s.gaprec := rfl
@[simp] theorem emit_dec (r : Record) (s : State) : (emit r s).dec = s.dec := rfl
@[simp] theorem emit_fb (r : Record) (s : State) : (emit r s).fb = s.fb := rfl
@[simp] theorem emit_fbDraw (r : Record) (s : State) : (emit r s).fbDraw = s.fbDraw := rfl
@[simp] theorem emit_sink (r : Record) (s : State) : (emit r s).sink = s.sink ++ [r] := rfl
@[simp] theorem emit_commands (r : Record) (s : State) : (emit r s).commands = s.commands := rfl
@[simp] theorem emit_agenda (r : Record) (s : State) : (emit r s).agenda = s.agenda := rfl
@[simp] theorem emit_choices (r : Record) (s : State) : (emit r s).choices = s.choices := rfl

/-! ### frameWrite -/

@[simp] theorem frameWrite_cfg (j : Nat) (v : Byte) (s : State) : (frameWrite j v s).cfg = s.cfg := rfl
@[simp] theorem frameWrite_channels (j : Nat) (v : Byte) (s : State) : (frameWrite j v s).channels = s.channels := rfl
@[simp] theorem frameWrite_status (j : Nat) (v : Byte) (s : State) : (frameWrite j v s).status = s.status := rfl
@[simp] theorem frameWrite_bstate (j : Nat) (v : Byte) (s : State) : (frameWrite j v s).bstate = s.bstate := rfl
@[simp] theorem frameWrite_work (j : Nat) (v : Byte) (s : State) : (frameWrite j v s).work = s.work := rfl
@[simp] theorem frameWrite_dch (j : Nat) (v : Byte) (s : State) : (frameWrite j v s).dch = s.dch := rfl
@[simp] theorem frameWrite_gaprec (j : Nat) (v : Byte) (s : State) : (frameWrite j v s).gaprec = s.gaprec := rfl
@[simp] theorem frameWrite_dec (j : Nat) (v : Byte) (s : State) : (frameWrite j v s).dec = s.dec := rfl
@[simp] theorem frameWrite_fb (j : Nat) (v : Byte) (s : State) : (frameWrite j v s).fb = s.fb.write j v := rfl
@[simp] theorem frameWrite_fbDraw (j : Nat) (v : Byte) (s : State) : (frameWrite j v s).fbDraw = s.fbDraw := rfl
@[simp] theorem frameWrite_sink (j : Nat) (v : Byte) (s : State) : (frameWrite j v s).sink = s.sink := rfl
@[simp] theorem frameWrite_commands (j : Nat) (v : Byte) (s : State) : (frameWrite j v s).commands = s.commands := rfl
@[simp] theorem frameWrite_agenda (j : Nat) (v : Byte) (s : State) : (frameWrite j v s).agenda = s.agenda := rfl
@[simp] theorem frameWrite_choices (j : Nat) (v : Byte) (s : State) : (frameWrite j v s).choices = s.choices := rfl

/-! ### modifyChan -/

@[simp] theorem modifyChan_cfg (c : Nat) (f : Channel → Channel) (s : State) : (s.modifyChan c f).cfg = s.cfg := rfl
@[simp] theorem modifyChan_channels (c : Nat) (f : Channel → Channel) (s : State) : (s.modifyChan c f).channels = s.channels.modify c f := rfl
@[simp] theorem modifyChan_status (c : Nat) (f : Channel → Channel) (s : State) : (s.modifyChan c f).status = s.status := rfl
@[simp] theorem modifyChan_bstate (c : Nat) (f : Channel → Channel) (s : State) : (s.modifyChan c f).bstate = s.bstate := rfl
@[simp] theorem modifyChan_work (c : Nat) (f : Channel → Channel) (s : State) : (s.modifyChan c f).work = s.work := rfl
@[simp] theorem modifyChan_dch (c : Nat) (f : Channel → Channel) (s : State) : (s.modifyChan c f).dch = s.dch := rfl
@[simp] theorem modifyChan_gaprec (c : Nat) (f : Channel → Channel) (s : State) : (s.modifyChan c f).gaprec = s.gaprec := rfl
@[simp] theorem modifyChan_dec (c : Nat) (f : Channel → Channel) (s : State) : (s.modifyChan c f).dec = s.dec := rfl
@[simp] theorem modifyChan_fb (c : Nat) (f : Channel → Channel) (s : State) : (s.modifyChan c f).fb = s.fb := rfl
@[simp] theorem modifyChan_fbDraw (c : Nat) (f : Channel → Channel) (s : State) : (s.modifyChan c f).fbDraw = s.fbDraw := rfl
@[simp] theorem modifyChan_sink (c : Nat) (f : Channel → Channel) (s : State) : (s.modifyChan c f).sink = s.sink := rfl
@[simp] theorem modifyChan_commands (c : Nat) (f : Channel → Channel) (s : State) : (s.modifyChan c f).commands = s.commands := rfl
@[simp] theorem modifyChan_agenda (c : Nat) (f : Channel → Channel) (s : State) : (s.modifyChan c f).agenda = s.agenda := rfl
@[simp] theorem modifyChan_choices (c : Nat) (f : Channel → Channel) (s : State) : (s.modifyChan c f).choices = s.choices := rfl

/-! ### capCmd -/

@[simp] theorem capCmd_cfg (op : CapOp) (c : Nat) (s : State) : (capCmd op c s).cfg = s.cfg := rfl
@[simp] theorem capCmd_channels (op : CapOp) (c : Nat) (s : State) : (capCmd op c s).channels = s.channels.modify c (obeyCommand op) := rfl
@[simp] theorem capCmd_status (op : CapOp) (c : Nat) (s : State) : (capCmd op c s).status = s.status := rfl
@[simp] theorem capCmd_bstate (op : CapOp) (c : Nat) (s : State) : (capCmd op c s).bstate = s.bstate := rfl
@[simp] theorem capCmd_work (op : CapOp) (c : Nat) (s : State) : (capCmd op c s).work = s.work := rfl
@[simp] theorem capCmd_dch (op : CapOp) (c : Nat) (s : State) : (capCmd op c s).dch = s.dch := rfl
@[simp] theorem capCmd_gaprec (op : CapOp) (c : Nat) (s : State) : (capCmd op c s).gaprec = s.gaprec := rfl
@[simp] theorem capCmd_dec (op : CapOp) (c : Nat) (s : State) : (capCmd op c s).dec = s.dec := rfl
@[simp] theorem capCmd_fb (op : CapOp) (c : Nat) (s : State) : (capCmd op c s).fb = s.fb := rfl
@[simp] theorem capCmd_fbDraw (op : CapOp) (c : Nat) (s : State) : (capCmd op c s).fbDraw = s.fbDraw := rfl
@[simp] theorem capCmd_sink (op : CapOp) (c : Nat) (s : State) : (capCmd op c s).sink = s.sink := rfl
@[simp] theorem capCmd_commands (op : CapOp) (c : Nat) (s : State) : (capCmd op c s).commands = s.commands ++ [{ op := op, ch := c }] := rfl
@[simp] theorem capCmd_agenda (op : CapOp) (c : Nat) (s : State) : (capCmd op c s).agenda = s.agenda := rfl
@[simp] theorem capCmd_choices (op : CapOp) (c : Nat) (s : State) : (capCmd op c s).choices = s.choices := rfl

/-! ### takeDispatch -/

@[simp] theorem takeDispatch_cfg (s : State) : (takeDispatch s).cfg = s.cfg := rfl
@[simp] theorem takeDispatch_channels (s : State) : (takeDispatch s).channels = s.channels := rfl
@[simp] theorem takeDispatch_status (s : State) : (takeDispatch s).status = s.status := rfl
@[simp] theorem takeDispatch_bstate (s : State) : (takeDispatch s).bstate = .select := rfl
@[simp] theorem takeDispatch_work (s : State) : (takeDispatch s).work = s.status := rfl
@[simp] theorem takeDispatch_dch (s : State) : (takeDispatch s).dch = s.dch := rfl
@[simp] theorem takeDispatch_gaprec (s : State) : (takeDispatch s).gaprec = s.gaprec := rfl
@[simp] theorem takeDispatch_dec (s : State) : (takeDispatch s).dec = s.dec := rfl
@[simp] theorem takeDispatch_fb (s : State) : (takeDispatch s).fb = s.fb := rfl
@[simp] theorem takeDispatch_fbDraw (s : State) : (takeDispatch s).fbDraw = s.fbDraw := rfl
@[simp] theorem takeDispatch_sink (s : State) : (takeDispatch s).sink = s.sink := rfl
@[simp] theorem takeDispatch_commands (s : State) : (takeDispatch s).commands = s.commands := rfl
@[simp] theorem takeDispatch_agenda (s : State) : (takeDispatch s).agenda = s.agenda := rfl
@[simp] theorem takeDispatch_choices (s : State) : (takeDispatch s).choices = s.choices := rfl

/-! ### endDispatch -/

@[simp] theorem endDispatch_cfg (s : State) : (endDispatch s).cfg = s.cfg := rfl
@[simp] theorem endDispatch_channels (s : State) : (endDispatch s).channels = s.channels := rfl
@[simp] theorem endDispatch_status (s : State) : (endDispatch s).status = s.status := rfl
@[simp] theorem endDispatch_bstate (s : State) : (endDispatch s).bstate = .idle := rfl
@[simp] theorem endDispatch_work (s : State) : (endDispatch s).work = s.work := rfl
@[simp] theorem endDispatch_dch (s : State) : (endDispatch s).dch = s.dch := rfl
@[simp] theorem endDispatch_gaprec (s : State) : (endDispatch s).gaprec = s.gaprec := rfl
@[simp] theorem endDispatch_dec (s : State) : (endDispatch s).dec = s.dec := rfl
@[simp] theorem endDispatch_fb (s : State) : (endDispatch s).fb = s.fb := rfl
@[simp] theorem endDispatch_fbDraw (s : State) : (endDispatch s).fbDraw = s.fbDraw := rfl
@[simp] theorem endDispatch_sink (s : State) : (endDispatch s).sink = s.sink := rfl
@[simp] theorem endDispatch_commands (s : State) : (endDispatch s).commands = s.commands := rfl
@[simp] theorem endDispatch_agenda (s : State) : (endDispatch s).agenda = s.agenda := rfl
@[simp] theorem endDispatch_choices (s : State) : (endDispatch s).choices = s.choices := rfl

/-! ### clearPending -/

@[simp] theorem clearPending_cfg (b : Nat) (s : State) : (clearPending b s).cfg = s.cfg := rfl
@[simp] theorem clearPending_channels (b : Nat) (s : State) : (clearPending b s).channels = s.channels := rfl
@[simp] theorem clearPending_status (b : Nat) (s : State) : (clearPending b s).status = clearBit s.status b := rfl
@[simp] theorem clearPending_bstate (b : Nat) (s : State) : (clearPending b s).bstate = s.bstate := rfl
@[simp] theorem clearPending_work (b : Nat) (s : State) : (clearPending b s).work = clearBit s.work b := rfl
@[simp] theorem clearPending_dch (b : Nat) (s : State) : (clearPending b s).dch = s.dch := rfl
@[simp] theorem clearPending_gaprec (b : Nat) (s : State) : (clearPending b s).gaprec = s.gaprec := rfl
@[simp] theorem clearPending_dec (b : Nat) (s : State) : (clearPending b s).dec = s.dec := rfl
@[simp] theorem clearPending_fb (b : Nat) (s : State) : (clearPending b s).fb = s.fb := rfl
@[simp] theorem clearPending_fbDraw (b : Nat) (s : State) : (clearPending b s).fbDraw = s.fbDraw := rfl
@[simp] theorem clearPending_sink (b : Nat) (s : State) : (clearPending b s).sink = s.sink := rfl
@[simp] theorem clearPending_commands (b : Nat) (s : State) : (clearPending b s).commands = s.commands := rfl
@[simp] theorem clearPending_agenda (b : Nat) (s : State) : (clearPending b s).agenda = s.agenda := rfl
@[simp] theorem clearPending_choices (b : Nat) (s : State) : (clearPending b s).choices = s.choices := rfl

/-! ### setPending -/

@[simp] theorem setPending_cfg (b : Nat) (s : State) : (setPending b s).cfg = s.cfg := rfl
@[simp] theorem setPending_channels (b : Nat) (s : State) : (setPending b s).channels = s.channels := rfl
@[simp] theorem setPending_status (b : Nat) (s : State) : (setPending b s).status = setBit s.status b := rfl
@[simp] theorem setPending_bstate (b : Nat) (s : State) : (setPending b s).bstate = s.bstate := rfl
@[simp] theorem setPending_work (b : Nat) (s : State) : (setPending b s).work = s.work := rfl
@[simp] theorem setPending_dch (b : Nat) (s : State) : (setPending b s).dch = s.dch := rfl
@[simp] theorem setPending_gaprec (b : Nat) (s : State) : (setPending b s).gaprec = s.gaprec := rfl
@[simp] theorem setPending_dec (b : Nat) (s : State) : (setPending b s).dec = s.dec := rfl
@[simp] theorem setPending_fb (b : Nat) (s : State) : (setPending b s).fb = s.fb := rfl
@[simp] theorem setPending_fbDraw (b : Nat) (s : State) : (setPending b s).fbDraw = s.fbDraw := rfl
@[simp] theorem setPending_sink (b : Nat) (s : State) : (setPending b s).sink = s.sink := rfl
@[simp] theorem setPending_commands (b : Nat) (s : State) : (setPending b s).commands = s.commands := rfl
@[simp] theorem setPending_agenda (b : Nat) (s : State) : (setPending b s).agenda = s.agenda := rfl
@[simp] theorem setPending_choices (b : Nat) (s : State) : (setPending b s).choices = s.choices := rfl

/-! ### beginFrame -/

@[simp] theorem beginFrame_cfg (s : State) : (beginFrame s).cfg = s.cfg := rfl
@[simp] theorem beginFrame_channels (s : State) : (beginFrame s).channels = s.channels := rfl
@[simp] theorem beginFrame_status (s : State) : (beginFrame s).status = s.status := rfl
@[simp] theorem beginFrame_bstate (s : State) : (beginFrame s).bstate = s.bstate := rfl
@[simp] theorem beginFrame_work (s : State) : (beginFrame s).work = s.work := rfl
@[simp] theorem beginFrame_dch (s : State) : (beginFrame s).dch = s.dch := rfl
@[simp] theorem beginFrame_gaprec (s : State) : (beginFrame s).gaprec = s.gaprec := rfl
@[simp] theorem beginFrame_dec (s : State) : (beginFrame s).dec = Decoder.start := rfl
@[simp] theorem beginFrame_fb (s : State) : (beginFrame s).fb = s.fb := rfl
@[simp] theorem beginFrame_fbDraw (s : State) : (beginFrame s).fbDraw = s.fbDraw := rfl
@[simp] theorem beginFrame_sink (s : State) : (beginFrame s).sink = s.sink := rfl
@[simp] theorem beginFrame_commands (s : State) : (beginFrame s).commands = s.commands := rfl
@[simp] theorem beginFrame_agenda (s : State) : (beginFrame s).agenda = s.agenda := rfl
@[simp] theorem beginFrame_choices (s : State) : (beginFrame s).choices = s.choices := rfl

/-! ### endFrame -/

@[simp] theorem endFrame_cfg (why : Stop) (s : State) : (endFrame why s).cfg = s.cfg := rfl
@[simp] theorem endFrame_channels (why : Stop) (s : State) : (endFrame why s).channels = s.channels := rfl
@[simp] theorem endFrame_status (why : Stop) (s : State) : (endFrame why s).status = s.status := rfl
@[simp] theorem endFrame_bstate (why : Stop) (s : State) : (endFrame why s).bstate = s.bstate := rfl
@[simp] theorem endFrame_work (why : Stop) (s : State) : (endFrame why s).work = s.work := rfl
@[simp] theorem endFrame_dch (why : Stop) (s : State) : (endFrame why s).dch = s.dch := rfl
@[simp] theorem endFrame_gaprec (why : Stop) (s : State) : (endFrame why s).gaprec = s.gaprec := rfl
@[simp] theorem endFrame_dec (why : Stop) (s : State) : (endFrame why s).dec = { s.dec with stop := why } := rfl
@[simp] theorem endFrame_fb (why : Stop) (s : State) : (endFrame why s).fb = s.fb := rfl
@[simp] theorem endFrame_fbDraw (why : Stop) (s : State) : (endFrame why s).fbDraw = s.fbDraw := rfl
@[simp] theorem endFrame_sink (why : Stop) (s : State) : (endFrame why s).sink = s.sink := rfl
@[simp] theorem endFrame_commands (why : Stop) (s : State) : (endFrame why s).commands = s.commands := rfl
@[simp] theorem endFrame_agenda (why : Stop) (s : State) : (endFrame why s).agenda = s.agenda := rfl
@[simp] theorem endFrame_choices (why : Stop) (s : State) : (endFrame why s).choices = s.choices := rfl

/-! ### setBoundary -/

@[simp] theorem setBoundary_cfg (j : Nat) (s : State) : (setBoundary j s).cfg = s.cfg := rfl
@[simp] theorem setBoundary_channels (j : Nat) (s : State) : (setBoundary j s).channels = s.channels := rfl
@[simp] theorem setBoundary_status (j : Nat) (s : State) : (setBoundary j s).status = s.status := rfl
@[simp] theorem setBoundary_bstate (j : Nat) (s : State) : (setBoundary j s).bstate = s.bstate := rfl
@[simp] theorem setBoundary_work (j : Nat) (s : State) : (setBoundary j s).work = s.work := rfl
@[simp] theorem setBoundary_dch (j : Nat) (s : State) : (setBoundary j s).dch = s.dch := rfl
@[simp] theorem setBoundary_gaprec (j : Nat) (s : State) : (setBoundary j s).gaprec = s.gaprec := rfl
@[simp] theorem setBoundary_dec (j : Nat) (s : State) : (setBoundary j s).dec = { s.dec with skipk := .resolved, skipidx := j } := rfl
@[simp] theorem setBoundary_fb (j : Nat) (s : State) : (setBoundary j s).fb = s.fb := rfl
@[simp] theorem setBoundary_fbDraw (j : Nat) (s : State) : (setBoundary j s).fbDraw = s.fbDraw := rfl
@[simp] theorem setBoundary_sink (j : Nat) (s : State) : (setBoundary j s).sink = s.sink := rfl
@[simp] theorem setBoundary_commands (j : Nat) (s : State) : (setBoundary j s).commands = s.commands := rfl
@[simp] theorem setBoundary_agenda (j : Nat) (s : State) : (setBoundary j s).agenda = s.agenda := rfl
@[simp] theorem setBoundary_choices (j : Nat) (s : State) : (setBoundary j s).choices = s.choices := rfl

/-! ### leaveUnresolved -/

@[simp] theorem leaveUnresolved_cfg (s : State) : (leaveUnresolved s).cfg = s.cfg := rfl
@[simp] theorem leaveUnresolved_channels (s : State) : (leaveUnresolved s).channels = s.channels := rfl
@[simp] theorem leaveUnresolved_status (s : State) : (leaveUnresolved s).status = s.status := rfl
@[simp] theorem leaveUnresolved_bstate (s : State) : (leaveUnresolved s).bstate = s.bstate := rfl
@[simp] theorem leaveUnresolved_work (s : State) : (leaveUnresolved s).work = s.work := rfl
@[simp] theorem leaveUnresolved_dch (s : State) : (leaveUnresolved s).dch = s.dch := rfl
@[simp] theorem leaveUnresolved_gaprec (s : State) : (leaveUnresolved s).gaprec = s.gaprec := rfl
@[simp] theorem leaveUnresolved_dec (s : State) : (leaveUnresolved s).dec = { s.dec with skipk := .unresolved } := rfl
@[simp] theorem leaveUnresolved_fb (s : State) : (leaveUnresolved s).fb = s.fb := rfl
@[simp] theorem leaveUnresolved_fbDraw (s : State) : (leaveUnresolved s).fbDraw = s.fbDraw := rfl
@[simp] theorem leaveUnresolved_sink (s : State) : (leaveUnresolved s).sink = s.sink := rfl
@[simp] theorem leaveUnresolved_commands (s : State) : (leaveUnresolved s).commands = s.commands := rfl
@[simp] theorem leaveUnresolved_agenda (s : State) : (leaveUnresolved s).agenda = s.agenda := rfl
@[simp] theorem leaveUnresolved_choices (s : State) : (leaveUnresolved s).choices = s.choices := rfl

/-! ### assembleBit -/

@[simp] theorem assembleBit_cfg (bit : Bool) (s : State) : (assembleBit bit s).cfg = s.cfg := rfl
@[simp] theorem assembleBit_channels (bit : Bool) (s : State) : (assembleBit bit s).channels = s.channels := rfl
@[simp] theorem assembleBit_status (bit : Bool) (s : State) : (assembleBit bit s).status = s.status := rfl
@[simp] theorem assembleBit_bstate (bit : Bool) (s : State) : (assembleBit bit s).bstate = s.bstate := rfl
@[simp] theorem assembleBit_work (bit : Bool) (s : State) : (assembleBit bit s).work = s.work := rfl
@[simp] theorem assembleBit_dch (bit : Bool) (s : State) : (assembleBit bit s).dch = s.dch := rfl
@[simp] theorem assembleBit_gaprec (bit : Bool) (s : State) : (assembleBit bit s).gaprec = s.gaprec := rfl
@[simp] theorem assembleBit_dec (bit : Bool) (s : State) : (assembleBit bit s).dec = { s.dec with acc := shiftIn s.dec.acc bit, nb := s.dec.nb + 1 } := rfl
@[simp] theorem assembleBit_fb (bit : Bool) (s : State) : (assembleBit bit s).fb = s.fb := rfl
@[simp] theorem assembleBit_fbDraw (bit : Bool) (s : State) : (assembleBit bit s).fbDraw = s.fbDraw := rfl
@[simp] theorem assembleBit_sink (bit : Bool) (s : State) : (assembleBit bit s).sink = s.sink := rfl
@[simp] theorem assembleBit_commands (bit : Bool) (s : State) : (assembleBit bit s).commands = s.commands := rfl
@[simp] theorem assembleBit_agenda (bit : Bool) (s : State) : (assembleBit bit s).agenda = s.agenda := rfl
@[simp] theorem assembleBit_choices (bit : Bool) (s : State) : (assembleBit bit s).choices = s.choices := rfl

/-! ### completeByte -/

@[simp] theorem completeByte_cfg (s : State) : (completeByte s).cfg = s.cfg := rfl
@[simp] theorem completeByte_channels (s : State) : (completeByte s).channels = s.channels := rfl
@[simp] theorem completeByte_status (s : State) : (completeByte s).status = s.status := rfl
@[simp] theorem completeByte_bstate (s : State) : (completeByte s).bstate = s.bstate := rfl
@[simp] theorem completeByte_work (s : State) : (completeByte s).work = s.work := rfl
@[simp] theorem completeByte_dch (s : State) : (completeByte s).dch = s.dch := rfl
@[simp] theorem completeByte_gaprec (s : State) : (completeByte s).gaprec = s.gaprec := rfl
@[simp] theorem completeByte_dec (s : State) : (completeByte s).dec = { s.dec with len := s.dec.len + 1, acc := 0 } := rfl
@[simp] theorem completeByte_fb (s : State) : (completeByte s).fb = s.fb.write s.dec.len s.dec.acc := rfl
@[simp] theorem completeByte_fbDraw (s : State) : (completeByte s).fbDraw = s.fbDraw := rfl
@[simp] theorem completeByte_sink (s : State) : (completeByte s).sink = s.sink ++ [.byte s.dch s.dec.acc] := rfl
@[simp] theorem completeByte_commands (s : State) : (completeByte s).commands = s.commands := rfl
@[simp] theorem completeByte_agenda (s : State) : (completeByte s).agenda = s.agenda := rfl
@[simp] theorem completeByte_choices (s : State) : (completeByte s).choices = s.choices := rfl

/-! ### advance -/

@[simp] theorem advance_cfg (s : State) : (advance s).cfg = s.cfg := rfl
@[simp] theorem advance_channels (s : State) : (advance s).channels = s.channels := rfl
@[simp] theorem advance_status (s : State) : (advance s).status = s.status := rfl
@[simp] theorem advance_bstate (s : State) : (advance s).bstate = s.bstate := rfl
@[simp] theorem advance_work (s : State) : (advance s).work = s.work := rfl
@[simp] theorem advance_dch (s : State) : (advance s).dch = s.dch := rfl
@[simp] theorem advance_gaprec (s : State) : (advance s).gaprec = s.gaprec := rfl
@[simp] theorem advance_dec (s : State) : (advance s).dec = { s.dec with cur := s.dec.cur + 1 } := rfl
@[simp] theorem advance_fb (s : State) : (advance s).fb = s.fb := rfl
@[simp] theorem advance_fbDraw (s : State) : (advance s).fbDraw = s.fbDraw := rfl
@[simp] theorem advance_sink (s : State) : (advance s).sink = s.sink := rfl
@[simp] theorem advance_commands (s : State) : (advance s).commands = s.commands := rfl
@[simp] theorem advance_agenda (s : State) : (advance s).agenda = s.agenda := rfl
@[simp] theorem advance_choices (s : State) : (advance s).choices = s.choices := rfl

/-! ### tickGaps -/

@[simp] theorem tickGaps_cfg (s : State) : (tickGaps s).cfg = s.cfg := rfl
@[simp] theorem tickGaps_channels (s : State) : (tickGaps s).channels = s.channels.map (fun ch => { ch with gap := (ch.gap + 1) % 2 ^ s.cfg.gw }) := rfl
@[simp] theorem tickGaps_status (s : State) : (tickGaps s).status = s.status := rfl
@[simp] theorem tickGaps_bstate (s : State) : (tickGaps s).bstate = s.bstate := rfl
@[simp] theorem tickGaps_work (s : State) : (tickGaps s).work = s.work := rfl
@[simp] theorem tickGaps_dch (s : State) : (tickGaps s).dch = s.dch := rfl
@[simp] theorem tickGaps_gaprec (s : State) : (tickGaps s).gaprec = s.gaprec := rfl
@[simp] theorem tickGaps_dec (s : State) : (tickGaps s).dec = s.dec := rfl
@[simp] theorem tickGaps_fb (s : State) : (tickGaps s).fb = s.fb := rfl
@[simp] theorem tickGaps_fbDraw (s : State) : (tickGaps s).fbDraw = s.fbDraw := rfl
@[simp] theorem tickGaps_sink (s : State) : (tickGaps s).sink = s.sink := rfl
@[simp] theorem tickGaps_commands (s : State) : (tickGaps s).commands = s.commands := rfl
@[simp] theorem tickGaps_agenda (s : State) : (tickGaps s).agenda = s.agenda := rfl
@[simp] theorem tickGaps_choices (s : State) : (tickGaps s).choices = s.choices := rfl

/-! ### latchError -/

@[simp] theorem latchError_cfg (c : Nat) (s : State) : (latchError c s).cfg = s.cfg := rfl
@[simp] theorem latchError_channels (c : Nat) (s : State) : (latchError c s).channels = s.channels.modify c (fun ch => { ch with errsup := true }) := rfl
@[simp] theorem latchError_status (c : Nat) (s : State) : (latchError c s).status = s.status := rfl
@[simp] theorem latchError_bstate (c : Nat) (s : State) : (latchError c s).bstate = s.bstate := rfl
@[simp] theorem latchError_work (c : Nat) (s : State) : (latchError c s).work = s.work := rfl
@[simp] theorem latchError_dch (c : Nat) (s : State) : (latchError c s).dch = s.dch := rfl
@[simp] theorem latchError_gaprec (c : Nat) (s : State) : (latchError c s).gaprec = s.gaprec := rfl
@[simp] theorem latchError_dec (c : Nat) (s : State) : (latchError c s).dec = s.dec := rfl
@[simp] theorem latchError_fb (c : Nat) (s : State) : (latchError c s).fb = s.fb := rfl
@[simp] theorem latchError_fbDraw (c : Nat) (s : State) : (latchError c s).fbDraw = s.fbDraw := rfl
@[simp] theorem latchError_sink (c : Nat) (s : State) : (latchError c s).sink = s.sink ++ [.error c] := rfl
@[simp] theorem latchError_commands (c : Nat) (s : State) : (latchError c s).commands = s.commands := rfl
@[simp] theorem latchError_agenda (c : Nat) (s : State) : (latchError c s).agenda = s.agenda := rfl
@[simp] theorem latchError_choices (c : Nat) (s : State) : (latchError c s).choices = s.choices := rfl

end Sys2Proof.Machine
end

