-- ==== Sys2Proof/Laws/Words.lean ====
section
/-!
SUPPORT. The laws of the operand forms: setting, clearing and picking a bit of a status word, the derived widths, the two
fields of a cell word, the shift into the accumulator, and packing fields.
-/

namespace Sys2Proof

/-! ## Bits of a status word -/

@[simp] theorem testBit_setBit (w b j : Nat) : (setBit w b).testBit j = (w.testBit j || decide (b = j)) := by
  simp [setBit, Nat.testBit_or, Nat.testBit_two_pow]

@[simp] theorem testBit_clearBit (w b j : Nat) :
    (clearBit w b).testBit j = (w.testBit j && decide (b ≠ j)) := by
  simp only [clearBit, Nat.testBit_xor, Nat.testBit_and, Nat.testBit_two_pow]
  by_cases h : b = j <;> simp [h]

theorem setBit_lt {w b n : Nat} (hw : w < 2 ^ n) (hb : b < n) : setBit w b < 2 ^ n :=
  Nat.or_lt_two_pow hw (Nat.pow_lt_pow_right (by omega) hb)

theorem clearBit_lt {w b n : Nat} (hw : w < 2 ^ n) : clearBit w b < 2 ^ n :=
  Nat.xor_lt_two_pow hw (lt_of_le_of_lt Nat.and_le_left hw)

theorem ccBit_ne_errBit (c d : Nat) : ccBit c ≠ errBit d := by simp only [ccBit, errBit]; omega

@[simp] theorem ccBit_inj {c d : Nat} : ccBit c = ccBit d ↔ c = d := by simp only [ccBit]; omega

@[simp] theorem errBit_inj {c d : Nat} : errBit c = errBit d ↔ c = d := by simp only [errBit]; omega

/-- A status bit is `CC[c]` or `ERR[c]` of its channel (R106, R112). -/
theorem bit_eq (b : Nat) : b = if bitIsError b then errBit (bitChannel b) else ccBit (bitChannel b) := by
  by_cases h : b % 2 = 1
  · rw [if_pos (by simp [bitIsError, h])]; simp only [errBit, bitChannel]; omega
  · rw [if_neg (by simp [bitIsError, h])]; simp only [ccBit, bitChannel]; omega

/-- A picked bit is set and within the word. -/
theorem pickBit_some {w b n j : Nat} (h : pickBit w b n = some j) : w.testBit j = true ∧ j < n := by
  have h1 := List.find?_some h
  have h2 := List.mem_of_find?_eq_some h
  simp only [List.mem_map, List.mem_range] at h2
  obtain ⟨k, hk, rfl⟩ := h2
  exact ⟨h1, Nat.mod_lt _ (by omega)⟩

/-- The bit named is the bit picked, where it is set. -/
theorem pickBit_self {w b n : Nat} (hb : b < n) (h : w.testBit b = true) : pickBit w b n = some b := by
  obtain ⟨m, rfl⟩ : ∃ m, n = m + 1 := ⟨n - 1, by omega⟩
  simp [pickBit, List.range_succ_eq_map, Nat.mod_eq_of_lt hb, h]

/-- No bit is picked exactly when none of the word's bits is set. -/
theorem pickBit_none {w b n : Nat} : pickBit w b n = none ↔ ∀ j < n, w.testBit j = false := by
  simp only [pickBit, List.find?_eq_none, List.mem_map, List.mem_range, forall_exists_index, and_imp,
    forall_apply_eq_imp_iff₂, Bool.not_eq_true]
  constructor
  · intro h j hj
    have := h ((j + n - b % n) % n) (Nat.mod_lt _ (by omega))
    have hb : b % n < n := Nat.mod_lt _ (by omega)
    have hmod : (b + (j + n - b % n) % n) % n = j := by
      rw [Nat.add_mod, Nat.mod_mod]
      by_cases hc : j + n - b % n < n
      · rw [Nat.mod_eq_of_lt hc, Nat.mod_eq_sub_mod (by omega), Nat.mod_eq_of_lt (by omega)]; omega
      · have : (j + n - b % n) % n = j - b % n := by
          rw [Nat.mod_eq_sub_mod (by omega), Nat.mod_eq_of_lt (by omega)]; omega
        rw [this, Nat.mod_eq_of_lt (by omega)]; omega
    rwa [hmod] at this
  · intro h k hk
    exact h _ (Nat.mod_lt _ (by omega))

theorem pickBit_zero (b n : Nat) : pickBit 0 b n = none := pickBit_none.2 (by simp)

theorem eq_zero_of_pickBit_none {w b n : Nat} (hw : w < 2 ^ n) (h : pickBit w b n = none) : w = 0 := by
  apply Nat.eq_of_testBit_eq
  intro j
  rw [Nat.zero_testBit]
  by_cases hj : j < n
  · exact pickBit_none.1 h j hj
  · exact Nat.testBit_lt_two_pow (lt_of_lt_of_le hw (Nat.pow_le_pow_right (by omega) (by omega)))

/-! ## Widths (R11) -/

theorem lt_two_pow_bitlen (n : Nat) : n < 2 ^ bitlen n := Nat.lt_log2_self

theorem ncell_lt (cfg : Config) : cfg.ncell < 2 ^ cfg.iw :=
  lt_of_lt_of_le (lt_two_pow_bitlen _) (Nat.pow_le_pow_right (by omega) (le_max_right _ _))

theorem tableSkipIndex_lt (cfg : Config) (k : Byte) : tableSkipIndex k < 2 ^ cfg.iw := by
  have h : 2 ^ 11 ≤ 2 ^ cfg.iw := Nat.pow_le_pow_right (by omega) (le_max_left _ _)
  have := k.isLt
  simp only [tableSkipIndex]; omega

theorem channel_lt (cfg : Config) {c : Nat} (h : c < cfg.nch) : c < 2 ^ cfg.cw := by
  have h1 : cfg.nch - 1 < 2 ^ cfg.cw :=
    lt_of_lt_of_le (lt_two_pow_bitlen _) (Nat.pow_le_pow_right (by omega) (le_max_right _ _))
  omega

/-! ## The cell word (R101, R102) -/

theorem cellLow_cellWord {cfg : Config} {l h : Nat} (hl : l < 2 ^ cfg.tw) : cellLow cfg (cellWord cfg l h) = l := by
  simp [cellLow, cellWord, Nat.mod_eq_of_lt hl]

theorem cellHigh_cellWord {cfg : Config} {l h : Nat} (hl : l < 2 ^ cfg.tw) (hh : h < 2 ^ cfg.tw) :
    cellHigh cfg (cellWord cfg l h) = h := by
  have : (l + 2 ^ cfg.tw * h) / 2 ^ cfg.tw = h := by
    rw [Nat.add_mul_div_left _ _ (by positivity), Nat.div_eq_of_lt hl, Nat.zero_add]
  simp [cellHigh, cellWord, this, Nat.mod_eq_of_lt hh]

theorem cellWord_lt {cfg : Config} {l h : Nat} (hl : l < 2 ^ cfg.tw) (hh : h < 2 ^ cfg.tw) :
    cellWord cfg l h < 2 ^ (2 * cfg.tw) := by
  have : 2 ^ (2 * cfg.tw) = 2 ^ cfg.tw * 2 ^ cfg.tw := by rw [two_mul, pow_add]
  have h1 : 2 ^ cfg.tw * (h + 1) ≤ 2 ^ cfg.tw * 2 ^ cfg.tw := Nat.mul_le_mul_left _ hh
  rw [this, cellWord]
  calc l + 2 ^ cfg.tw * h < 2 ^ cfg.tw * (h + 1) := by rw [Nat.mul_succ]; omega
    _ ≤ 2 ^ cfg.tw * 2 ^ cfg.tw := h1

/-- A word of 2*TW bits is its two fields. -/
theorem cellWord_fields {cfg : Config} {w : Nat} (hw : w < 2 ^ (2 * cfg.tw)) :
    cellWord cfg (cellLow cfg w) (cellHigh cfg w) = w := by
  have h : w / 2 ^ cfg.tw < 2 ^ cfg.tw := by
    rw [Nat.div_lt_iff_lt_mul (by positivity), ← pow_add, ← two_mul]; exact hw
  rw [cellWord, cellLow, cellHigh, Nat.mod_eq_of_lt h, Nat.mod_add_div]

theorem cellLow_lt (cfg : Config) (w : Nat) : cellLow cfg w < 2 ^ cfg.tw := Nat.mod_lt _ (by positivity)

theorem cellHigh_lt (cfg : Config) (w : Nat) : cellHigh cfg w < 2 ^ cfg.tw := Nat.mod_lt _ (by positivity)

theorem isSentinel_iff (h : Nat) : isSentinel h = true ↔ h = 0 := by simp [isSentinel]

theorem cellClass_sentinel (cfg : Config) (h : Nat) : cellClass cfg h = .sentinel ↔ h = 0 := by
  simp only [cellClass]; split
  · simp_all
  · split <;> simp_all

/-- The class of a data cell is its bit (R142-R144). -/
theorem cellClass_data (cfg : Config) {h : Nat} (hh : h ≠ 0) :
    cellClass cfg h = if bitOf cfg h then .data1 else .data0 := by
  simp only [cellClass, if_neg hh, bitOf, decide_eq_true_eq]
  by_cases hp : h ≤ cfg.p / 2
  · rw [if_pos hp, if_neg (by omega)]
  · rw [if_neg hp, if_pos (by omega)]

/-- A cell is anomalous exactly when its duration is outside the window (R146). -/
theorem isAnomalous_iff (cfg : Config) (l h : Nat) :
    isAnomalous cfg l h = true ↔ l + h < cfg.p - 1 ∨ l + h > cfg.p + 1 := by
  simp only [isAnomalous, Bool.or_eq_true, decide_eq_true_eq]; rfl

/-- A cell is in the window exactly when its duration is within one tick of P (R146). -/
theorem not_isAnomalous_iff (cfg : Config) (l h : Nat) :
    isAnomalous cfg l h = false ↔ cfg.p - 1 ≤ l + h ∧ l + h ≤ cfg.p + 1 := by
  rw [← Bool.not_eq_true, isAnomalous_iff]; omega

/-! ## Byte assembly (R186) -/

theorem toNat_shiftIn (acc : Byte) (bit : Bool) :
    (shiftIn acc bit).toNat = 2 * acc.toNat % 256 + bit.toNat := by
  have h := BitVec.toNat_append (acc.extractLsb' 0 7) (BitVec.ofBool bit)
  have h7 : (acc.extractLsb' 0 7).toNat = acc.toNat % 2 ^ 7 := by simp [BitVec.extractLsb'_toNat]
  have hs : (acc.toNat % 2 ^ 7) <<< 1 = 2 * acc.toNat % 256 := by rw [Nat.shiftLeft_eq]; omega
  rw [shiftIn, h, h7, hs]
  cases bit
  · simp
  · have : 2 * acc.toNat % 256 = 2 * (acc.toNat % 128) := by omega
    rw [this]
    exact (Nat.two_pow_add_eq_or_of_lt (i := 1) (b := 1) (by omega) (acc.toNat % 128)).symm

/-- Bits enter at bit 0 and move up (R16, R77, R186). -/
theorem getLsbD_shiftIn (acc : Byte) (bit : Bool) (j : Nat) :
    (shiftIn acc bit).getLsbD j = if j = 0 then bit else (decide (j < 8) && acc.getLsbD (j - 1)) := by
  have h := BitVec.getLsbD_append (x := acc.extractLsb' 0 7) (y := BitVec.ofBool bit) (i := j)
  rw [shiftIn, h]
  rcases j with _ | j
  · simp
  · have h8 : decide (j + 1 < 8) = decide (j < 7) := by congr 1; simp; omega
    simp [h8]

/-! ## Packing fields -/

theorem packFields_cons (n v : Nat) (fs : List (Nat × Nat)) (top : Nat) :
    packFields ((n, v) :: fs) top = v + 2 ^ n * packFields fs top := rfl

theorem add_mul_mod_two_pow {n v x : Nat} (h : v < 2 ^ n) : (v + 2 ^ n * x) % 2 ^ n = v := by
  simp [Nat.mod_eq_of_lt h]

theorem add_mul_div_two_pow {n v x : Nat} (h : v < 2 ^ n) : (v + 2 ^ n * x) / 2 ^ n = x := by
  rw [Nat.add_mul_div_left _ _ (by positivity), Nat.div_eq_of_lt h, Nat.zero_add]

/-- Unpacking what was packed gives every field back, and the top. -/
theorem unpackFields_packFields (fs : List (Nat × Nat)) (top : Nat) (h : ∀ f ∈ fs, f.2 < 2 ^ f.1) :
    unpackFields (fs.map (·.1)) (packFields fs top) = fs.map (·.2) ++ [top] := by
  induction fs with
  | nil => rfl
  | cons f fs ih =>
    obtain ⟨n, v⟩ := f
    have hv : v < 2 ^ n := h (n, v) (by simp)
    simp only [List.map_cons, unpackFields, packFields_cons, List.cons_append, add_mul_mod_two_pow hv,
      add_mul_div_two_pow hv, ih (fun f hf => h f (by simp [hf]))]

/-- Packing what was unpacked gives the word back. -/
theorem packFields_unpackFields (ns : List Nat) (w : Nat) :
    ∃ vs top, vs.length = ns.length ∧ unpackFields ns w = vs ++ [top] ∧ packFields (ns.zip vs) top = w := by
  induction ns generalizing w with
  | nil => exact ⟨[], w, rfl, rfl, rfl⟩
  | cons n ns ih =>
    obtain ⟨vs, top, hl, hu, hp⟩ := ih (w / 2 ^ n)
    exact ⟨w % 2 ^ n :: vs, top, by simp [hl], by simp [unpackFields, hu],
      by simp [packFields_cons, hp, Nat.mod_add_div]⟩

theorem unpackBytes_packBytes (bs : List Byte) : unpackBytes bs.length (packBytes bs) = some bs := by
  induction bs with
  | nil => rfl
  | cons b bs ih =>
    have hd : (b.toNat + 2 ^ 8 * packBytes bs) / 2 ^ 8 = packBytes bs := add_mul_div_two_pow b.isLt
    have hm : BitVec.ofNat 8 (b.toNat + 2 ^ 8 * packBytes bs) = b := by
      apply BitVec.eq_of_toNat_eq
      rw [BitVec.toNat_ofNat]; exact add_mul_mod_two_pow b.isLt
    simp only [List.length_cons, unpackBytes, packBytes, hd, hm, ih, Option.map_some]

theorem packBytes_unpackBytes {n w : Nat} {bs : List Byte} (h : unpackBytes n w = some bs) :
    bs.length = n ∧ packBytes bs = w := by
  induction n generalizing w bs with
  | zero =>
    simp only [unpackBytes] at h
    split at h
    · next hw => cases h; exact ⟨rfl, hw.symm⟩
    · cases h
  | succ n ih =>
    simp only [unpackBytes, Option.map_eq_some_iff] at h
    obtain ⟨cs, hc, rfl⟩ := h
    obtain ⟨h1, h2⟩ := ih hc
    refine ⟨by simp [h1], ?_⟩
    simp only [packBytes, h2, BitVec.toNat_ofNat]
    exact Nat.mod_add_div _ _

theorem skipKind_code (k : SkipKind) : SkipKind.ofCode k.code = some k := by cases k <;> rfl

theorem stop_code (k : Stop) : Stop.ofCode k.code = some k := by cases k <;> rfl

end Sys2Proof
end

