-- ==== Sys2Proof/Laws/Ops.lean ====
section
/-!
SUPPORT. What the shared operations of the machine can do: the channel a channel update changes, the fields the composed
operations change, and the cases of the decoder's sub-steps.
-/

namespace Sys2Proof.Machine

/-! ## Channels -/

theorem chan?_lt {s : State} {c : Nat} {ch : Channel} (h : s.chan? c = some ch) : c < s.channels.length :=
  (List.getElem?_eq_some_iff.1 h).1

theorem chan?_mem {s : State} {c : Nat} {ch : Channel} (h : s.chan? c = some ch) : ch ∈ s.channels :=
  List.mem_of_getElem? h

theorem mem_chan? {s : State} {ch : Channel} (h : ch ∈ s.channels) : ∃ c, s.chan? c = some ch :=
  List.mem_iff_getElem?.1 h

/-- An update of channel `c` changes channel `c` and no other. -/
theorem chan?_modifyChan (s : State) (c d : Nat) (f : Channel → Channel) :
    (s.modifyChan c f).chan? d = if c = d then (s.chan? d).map f else s.chan? d := by
  simp only [State.chan?, modifyChan_channels, List.getElem?_modify]
  split <;> simp

@[simp] theorem chan?_modifyChan_same (s : State) (c : Nat) (f : Channel → Channel) :
    (s.modifyChan c f).chan? c = (s.chan? c).map f := by simp [chan?_modifyChan]

theorem chan?_modifyChan_other (s : State) {c d : Nat} (h : c ≠ d) (f : Channel → Channel) :
    (s.modifyChan c f).chan? d = s.chan? d := by simp [chan?_modifyChan, h]

theorem chan?_of_channels {s t : State} (h : t.channels = s.channels) (c : Nat) : t.chan? c = s.chan? c := by
  simp [State.chan?, h]

theorem withChan_some {c : Nat} {s : State} {ch : Channel} (h : s.chan? c = some ch) (k : Channel → Result) :
    withChan c s k = k ch := by simp [withChan, h]

/-- A step that goes on with a channel answers a next state only where the channel exists. -/
theorem withChan_next {c : Nat} {s t : State} {k : Channel → Result} :
    withChan c s k = .next t ↔ ∃ ch, s.chan? c = some ch ∧ k ch = .next t := by
  unfold withChan; split <;> simp_all

theorem mayWrite_iff (cfg : Config) (ch : Channel) (i : Nat) :
    mayWrite cfg ch i = true ↔
      ch.owner = .hw ∧ ch.chstate = .capturing ∧ ch.stopped = false ∧ i = ch.wpos ∧ i < cfg.ncell := by
  simp [mayWrite, and_assoc]

/-! ## Composed operations, field by field -/

@[simp] theorem completeEntry_cfg (c gap : Nat) (s : State) : (completeEntry c gap s).cfg = s.cfg := rfl
@[simp] theorem completeEntry_channels (c gap : Nat) (s : State) :
    (completeEntry c gap s).channels =
      (s.channels.modify c (obeyCommand .disableCapture)).modify c (fun ch => { ch with owner := .sw, gap := 0 }) := rfl
@[simp] theorem completeEntry_status (c gap : Nat) (s : State) : (completeEntry c gap s).status = s.status := rfl
@[simp] theorem completeEntry_bstate (c gap : Nat) (s : State) : (completeEntry c gap s).bstate = .decode := rfl
@[simp] theorem completeEntry_work (c gap : Nat) (s : State) : (completeEntry c gap s).work = s.work := rfl
@[simp] theorem completeEntry_dch (c gap : Nat) (s : State) : (completeEntry c gap s).dch = c := rfl
@[simp] theorem completeEntry_gaprec (c gap : Nat) (s : State) : (completeEntry c gap s).gaprec = gap := rfl
@[simp] theorem completeEntry_dec (c gap : Nat) (s : State) : (completeEntry c gap s).dec = Decoder.start := rfl
@[simp] theorem completeEntry_fb (c gap : Nat) (s : State) : (completeEntry c gap s).fb = s.fb := rfl
@[simp] theorem completeEntry_fbDraw (c gap : Nat) (s : State) : (completeEntry c gap s).fbDraw = s.fbDraw := rfl
@[simp] theorem completeEntry_sink (c gap : Nat) (s : State) : (completeEntry c gap s).sink = s.sink := rfl
@[simp] theorem completeEntry_commands (c gap : Nat) (s : State) : (completeEntry c gap s).commands = s.commands ++ [{ op := .disableCapture, ch := c }] := rfl
@[simp] theorem completeEntry_agenda (c gap : Nat) (s : State) : (completeEntry c gap s).agenda = s.agenda := rfl
@[simp] theorem completeEntry_choices (c gap : Nat) (s : State) : (completeEntry c gap s).choices = s.choices := rfl

@[simp] theorem finishFrame_cfg (r : Summary) (s : State) : (finishFrame r s).cfg = s.cfg := rfl
@[simp] theorem finishFrame_channels (r : Summary) (s : State) :
    (finishFrame r s).channels =
      (s.channels.modify s.dch (obeyCommand .resetAndRearm)).modify s.dch (fun ch => { ch with owner := .hw, chstate := .armed }) := rfl
@[simp] theorem finishFrame_status (r : Summary) (s : State) : (finishFrame r s).status = s.status := rfl
@[simp] theorem finishFrame_bstate (r : Summary) (s : State) : (finishFrame r s).bstate = .select := rfl
@[simp] theorem finishFrame_work (r : Summary) (s : State) : (finishFrame r s).work = s.work := rfl
@[simp] theorem finishFrame_dch (r : Summary) (s : State) : (finishFrame r s).dch = s.dch := rfl
@[simp] theorem finishFrame_gaprec (r : Summary) (s : State) : (finishFrame r s).gaprec = s.gaprec := rfl
@[simp] theorem finishFrame_dec (r : Summary) (s : State) : (finishFrame r s).dec = s.dec := rfl
@[simp] theorem finishFrame_fb (r : Summary) (s : State) : (finishFrame r s).fb = s.fb := rfl
@[simp] theorem finishFrame_fbDraw (r : Summary) (s : State) : (finishFrame r s).fbDraw = s.fbDraw := rfl
@[simp] theorem finishFrame_sink (r : Summary) (s : State) : (finishFrame r s).sink = s.sink ++ [.summary r] := rfl
@[simp] theorem finishFrame_commands (r : Summary) (s : State) : (finishFrame r s).commands = s.commands ++ [{ op := .resetAndRearm, ch := s.dch }] := rfl
@[simp] theorem finishFrame_agenda (r : Summary) (s : State) : (finishFrame r s).agenda = s.agenda := rfl
@[simp] theorem finishFrame_choices (r : Summary) (s : State) : (finishFrame r s).choices = s.choices := rfl

@[simp] theorem countOverrun_cfg (c : Nat) (s : State) : (countOverrun c s).cfg = s.cfg := rfl
@[simp] theorem countOverrun_channels (c : Nat) (s : State) :
    (countOverrun c s).channels =
      s.channels.modify c (fun ch => { ch with ovr := min (ch.ovr + 1) (2 ^ s.cfg.ow - 1) }) := rfl
@[simp] theorem countOverrun_status (c : Nat) (s : State) : (countOverrun c s).status = s.status := rfl
@[simp] theorem countOverrun_bstate (c : Nat) (s : State) : (countOverrun c s).bstate = s.bstate := rfl
@[simp] theorem countOverrun_work (c : Nat) (s : State) : (countOverrun c s).work = s.work := rfl
@[simp] theorem countOverrun_dch (c : Nat) (s : State) : (countOverrun c s).dch = s.dch := rfl
@[simp] theorem countOverrun_gaprec (c : Nat) (s : State) : (countOverrun c s).gaprec = s.gaprec := rfl
@[simp] theorem countOverrun_dec (c : Nat) (s : State) : (countOverrun c s).dec = s.dec := rfl
@[simp] theorem countOverrun_fb (c : Nat) (s : State) : (countOverrun c s).fb = s.fb := rfl
@[simp] theorem countOverrun_fbDraw (c : Nat) (s : State) : (countOverrun c s).fbDraw = s.fbDraw := rfl
@[simp] theorem countOverrun_sink (c : Nat) (s : State) : (countOverrun c s).sink = s.sink := rfl
@[simp] theorem countOverrun_commands (c : Nat) (s : State) : (countOverrun c s).commands = s.commands := rfl
@[simp] theorem countOverrun_agenda (c : Nat) (s : State) : (countOverrun c s).agenda = s.agenda := rfl
@[simp] theorem countOverrun_choices (c : Nat) (s : State) : (countOverrun c s).choices = s.choices := rfl

@[simp] theorem cellWrite_cfg (c i : Nat) (v : Word) (s : State) : (cellWrite c i v s).cfg = s.cfg := rfl
@[simp] theorem cellWrite_channels (c i : Nat) (v : Word) (s : State) :
    (cellWrite c i v s).channels =
      s.channels.modify c
        (fun ch => { ch with cb := ch.cb.write i { word := v, fresh := true }, wpos := i + 1 }) := rfl
@[simp] theorem cellWrite_status (c i : Nat) (v : Word) (s : State) : (cellWrite c i v s).status = s.status := rfl
@[simp] theorem cellWrite_bstate (c i : Nat) (v : Word) (s : State) : (cellWrite c i v s).bstate = s.bstate := rfl
@[simp] theorem cellWrite_work (c i : Nat) (v : Word) (s : State) : (cellWrite c i v s).work = s.work := rfl
@[simp] theorem cellWrite_dch (c i : Nat) (v : Word) (s : State) : (cellWrite c i v s).dch = s.dch := rfl
@[simp] theorem cellWrite_gaprec (c i : Nat) (v : Word) (s : State) : (cellWrite c i v s).gaprec = s.gaprec := rfl
@[simp] theorem cellWrite_dec (c i : Nat) (v : Word) (s : State) : (cellWrite c i v s).dec = s.dec := rfl
@[simp] theorem cellWrite_fb (c i : Nat) (v : Word) (s : State) : (cellWrite c i v s).fb = s.fb := rfl
@[simp] theorem cellWrite_fbDraw (c i : Nat) (v : Word) (s : State) : (cellWrite c i v s).fbDraw = s.fbDraw := rfl
@[simp] theorem cellWrite_sink (c i : Nat) (v : Word) (s : State) : (cellWrite c i v s).sink = s.sink := rfl
@[simp] theorem cellWrite_commands (c i : Nat) (v : Word) (s : State) : (cellWrite c i v s).commands = s.commands := rfl
@[simp] theorem cellWrite_agenda (c i : Nat) (v : Word) (s : State) : (cellWrite c i v s).agenda = s.agenda := rfl
@[simp] theorem cellWrite_choices (c i : Nat) (v : Word) (s : State) : (cellWrite c i v s).choices = s.choices := rfl

@[simp] theorem resetAll_cfg (s : State) : (resetAll s).cfg = s.cfg := rfl
@[simp] theorem resetAll_sink (s : State) : (resetAll s).sink = s.sink := rfl
@[simp] theorem resetAll_commands (s : State) : (resetAll s).commands = s.commands := rfl
@[simp] theorem resetAll_agenda (s : State) : (resetAll s).agenda = s.agenda := rfl
@[simp] theorem resetAll_choices (s : State) : (resetAll s).choices = s.choices := rfl
@[simp] theorem resetAll_channels (s : State) :
    (resetAll s).channels =
      s.channels.map (fun ch => { Channel.reset with draw := ch.draw + 1 }) := rfl
@[simp] theorem resetAll_status (s : State) : (resetAll s).status = 0 := rfl
@[simp] theorem resetAll_bstate (s : State) : (resetAll s).bstate = .idle := rfl
@[simp] theorem resetAll_work (s : State) : (resetAll s).work = 0 := rfl
@[simp] theorem resetAll_dch (s : State) : (resetAll s).dch = 0 := rfl
@[simp] theorem resetAll_gaprec (s : State) : (resetAll s).gaprec = 0 := rfl
@[simp] theorem resetAll_dec (s : State) : (resetAll s).dec = Decoder.start := rfl
@[simp] theorem resetAll_fb (s : State) : (resetAll s).fb = [] := rfl
@[simp] theorem resetAll_fbDraw (s : State) : (resetAll s).fbDraw = s.fbDraw + 1 := rfl

/-! ## The decoder's sub-steps: the fields they leave alone -/

@[simp] theorem applyEntry_cfg (k : Byte) (s : State) : (applyEntry k s).cfg = s.cfg := by unfold applyEntry; split <;> rfl
@[simp] theorem applyEntry_channels (k : Byte) (s : State) : (applyEntry k s).channels = s.channels := by unfold applyEntry; split <;> rfl
@[simp] theorem applyEntry_status (k : Byte) (s : State) : (applyEntry k s).status = s.status := by unfold applyEntry; split <;> rfl
@[simp] theorem applyEntry_bstate (k : Byte) (s : State) : (applyEntry k s).bstate = s.bstate := by unfold applyEntry; split <;> rfl
@[simp] theorem applyEntry_work (k : Byte) (s : State) : (applyEntry k s).work = s.work := by unfold applyEntry; split <;> rfl
@[simp] theorem applyEntry_dch (k : Byte) (s : State) : (applyEntry k s).dch = s.dch := by unfold applyEntry; split <;> rfl
@[simp] theorem applyEntry_gaprec (k : Byte) (s : State) : (applyEntry k s).gaprec = s.gaprec := by unfold applyEntry; split <;> rfl
@[simp] theorem applyEntry_fbDraw (k : Byte) (s : State) : (applyEntry k s).fbDraw = s.fbDraw := by unfold applyEntry; split <;> rfl
@[simp] theorem applyEntry_commands (k : Byte) (s : State) : (applyEntry k s).commands = s.commands := by unfold applyEntry; split <;> rfl
@[simp] theorem applyEntry_agenda (k : Byte) (s : State) : (applyEntry k s).agenda = s.agenda := by unfold applyEntry; split <;> rfl
@[simp] theorem applyEntry_choices (k : Byte) (s : State) : (applyEntry k s).choices = s.choices := by unfold applyEntry; split <;> rfl
@[simp] theorem applyEntry_fb (k : Byte) (s : State) : (applyEntry k s).fb = s.fb := by unfold applyEntry; split <;> rfl
@[simp] theorem applyEntry_sink (k : Byte) (s : State) : (applyEntry k s).sink = s.sink := by unfold applyEntry; split <;> rfl

@[simp] theorem resolveHeader_cfg (s : State) : (resolveHeader s).cfg = s.cfg := by unfold resolveHeader; split <;> simp
@[simp] theorem resolveHeader_channels (s : State) : (resolveHeader s).channels = s.channels := by unfold resolveHeader; split <;> simp
@[simp] theorem resolveHeader_status (s : State) : (resolveHeader s).status = s.status := by unfold resolveHeader; split <;> simp
@[simp] theorem resolveHeader_bstate (s : State) : (resolveHeader s).bstate = s.bstate := by unfold resolveHeader; split <;> simp
@[simp] theorem resolveHeader_work (s : State) : (resolveHeader s).work = s.work := by unfold resolveHeader; split <;> simp
@[simp] theorem resolveHeader_dch (s : State) : (resolveHeader s).dch = s.dch := by unfold resolveHeader; split <;> simp
@[simp] theorem resolveHeader_gaprec (s : State) : (resolveHeader s).gaprec = s.gaprec := by unfold resolveHeader; split <;> simp
@[simp] theorem resolveHeader_fbDraw (s : State) : (resolveHeader s).fbDraw = s.fbDraw := by unfold resolveHeader; split <;> simp
@[simp] theorem resolveHeader_commands (s : State) : (resolveHeader s).commands = s.commands := by unfold resolveHeader; split <;> simp
@[simp] theorem resolveHeader_agenda (s : State) : (resolveHeader s).agenda = s.agenda := by unfold resolveHeader; split <;> simp
@[simp] theorem resolveHeader_choices (s : State) : (resolveHeader s).choices = s.choices := by unfold resolveHeader; split <;> simp
@[simp] theorem resolveHeader_fb (s : State) : (resolveHeader s).fb = s.fb := by unfold resolveHeader; split <;> simp
@[simp] theorem resolveHeader_sink (s : State) : (resolveHeader s).sink = s.sink := by unfold resolveHeader; split <;> simp

@[simp] theorem recordAnomaly_cfg (s : State) : (recordAnomaly s).cfg = s.cfg := by unfold recordAnomaly; split <;> rfl
@[simp] theorem recordAnomaly_channels (s : State) : (recordAnomaly s).channels = s.channels := by unfold recordAnomaly; split <;> rfl
@[simp] theorem recordAnomaly_status (s : State) : (recordAnomaly s).status = s.status := by unfold recordAnomaly; split <;> rfl
@[simp] theorem recordAnomaly_bstate (s : State) : (recordAnomaly s).bstate = s.bstate := by unfold recordAnomaly; split <;> rfl
@[simp] theorem recordAnomaly_work (s : State) : (recordAnomaly s).work = s.work := by unfold recordAnomaly; split <;> rfl
@[simp] theorem recordAnomaly_dch (s : State) : (recordAnomaly s).dch = s.dch := by unfold recordAnomaly; split <;> rfl
@[simp] theorem recordAnomaly_gaprec (s : State) : (recordAnomaly s).gaprec = s.gaprec := by unfold recordAnomaly; split <;> rfl
@[simp] theorem recordAnomaly_fbDraw (s : State) : (recordAnomaly s).fbDraw = s.fbDraw := by unfold recordAnomaly; split <;> rfl
@[simp] theorem recordAnomaly_commands (s : State) : (recordAnomaly s).commands = s.commands := by unfold recordAnomaly; split <;> rfl
@[simp] theorem recordAnomaly_agenda (s : State) : (recordAnomaly s).agenda = s.agenda := by unfold recordAnomaly; split <;> rfl
@[simp] theorem recordAnomaly_choices (s : State) : (recordAnomaly s).choices = s.choices := by unfold recordAnomaly; split <;> rfl
@[simp] theorem recordAnomaly_fb (s : State) : (recordAnomaly s).fb = s.fb := by unfold recordAnomaly; split <;> rfl
@[simp] theorem recordAnomaly_sink (s : State) : (recordAnomaly s).sink = s.sink := by unfold recordAnomaly; split <;> rfl

@[simp] theorem noteAnomaly_cfg (l h : Nat) (s : State) : (noteAnomaly l h s).cfg = s.cfg := by unfold noteAnomaly; split <;> simp
@[simp] theorem noteAnomaly_channels (l h : Nat) (s : State) : (noteAnomaly l h s).channels = s.channels := by unfold noteAnomaly; split <;> simp
@[simp] theorem noteAnomaly_status (l h : Nat) (s : State) : (noteAnomaly l h s).status = s.status := by unfold noteAnomaly; split <;> simp
@[simp] theorem noteAnomaly_bstate (l h : Nat) (s : State) : (noteAnomaly l h s).bstate = s.bstate := by unfold noteAnomaly; split <;> simp
@[simp] theorem noteAnomaly_work (l h : Nat) (s : State) : (noteAnomaly l h s).work = s.work := by unfold noteAnomaly; split <;> simp
@[simp] theorem noteAnomaly_dch (l h : Nat) (s : State) : (noteAnomaly l h s).dch = s.dch := by unfold noteAnomaly; split <;> simp
@[simp] theorem noteAnomaly_gaprec (l h : Nat) (s : State) : (noteAnomaly l h s).gaprec = s.gaprec := by unfold noteAnomaly; split <;> simp
@[simp] theorem noteAnomaly_fbDraw (l h : Nat) (s : State) : (noteAnomaly l h s).fbDraw = s.fbDraw := by unfold noteAnomaly; split <;> simp
@[simp] theorem noteAnomaly_commands (l h : Nat) (s : State) : (noteAnomaly l h s).commands = s.commands := by unfold noteAnomaly; split <;> simp
@[simp] theorem noteAnomaly_agenda (l h : Nat) (s : State) : (noteAnomaly l h s).agenda = s.agenda := by unfold noteAnomaly; split <;> simp
@[simp] theorem noteAnomaly_choices (l h : Nat) (s : State) : (noteAnomaly l h s).choices = s.choices := by unfold noteAnomaly; split <;> simp
@[simp] theorem noteAnomaly_fb (l h : Nat) (s : State) : (noteAnomaly l h s).fb = s.fb := by unfold noteAnomaly; split <;> simp
@[simp] theorem noteAnomaly_sink (l h : Nat) (s : State) : (noteAnomaly l h s).sink = s.sink := by unfold noteAnomaly; split <;> simp

@[simp] theorem passTurnaround_cfg (s : State) : (passTurnaround s).cfg = s.cfg := by
  unfold passTurnaround; dsimp only; repeat' (first | rfl | split)
@[simp] theorem passTurnaround_channels (s : State) : (passTurnaround s).channels = s.channels := by
  unfold passTurnaround; dsimp only; repeat' (first | rfl | split)
@[simp] theorem passTurnaround_status (s : State) : (passTurnaround s).status = s.status := by
  unfold passTurnaround; dsimp only; repeat' (first | rfl | split)
@[simp] theorem passTurnaround_bstate (s : State) : (passTurnaround s).bstate = s.bstate := by
  unfold passTurnaround; dsimp only; repeat' (first | rfl | split)
@[simp] theorem passTurnaround_work (s : State) : (passTurnaround s).work = s.work := by
  unfold passTurnaround; dsimp only; repeat' (first | rfl | split)
@[simp] theorem passTurnaround_dch (s : State) : (passTurnaround s).dch = s.dch := by
  unfold passTurnaround; dsimp only; repeat' (first | rfl | split)
@[simp] theorem passTurnaround_gaprec (s : State) : (passTurnaround s).gaprec = s.gaprec := by
  unfold passTurnaround; dsimp only; repeat' (first | rfl | split)
@[simp] theorem passTurnaround_fbDraw (s : State) : (passTurnaround s).fbDraw = s.fbDraw := by
  unfold passTurnaround; dsimp only; repeat' (first | rfl | split)
@[simp] theorem passTurnaround_commands (s : State) : (passTurnaround s).commands = s.commands := by
  unfold passTurnaround; dsimp only; repeat' (first | rfl | split)
@[simp] theorem passTurnaround_agenda (s : State) : (passTurnaround s).agenda = s.agenda := by
  unfold passTurnaround; dsimp only; repeat' (first | rfl | split)
@[simp] theorem passTurnaround_choices (s : State) : (passTurnaround s).choices = s.choices := by
  unfold passTurnaround; dsimp only; repeat' (first | rfl | split)
@[simp] theorem passTurnaround_fb (s : State) : (passTurnaround s).fb = s.fb := by
  unfold passTurnaround; dsimp only; repeat' (first | rfl | split)
@[simp] theorem passTurnaround_sink (s : State) : (passTurnaround s).sink = s.sink := by
  unfold passTurnaround; dsimp only; repeat' (first | rfl | split)

@[simp] theorem finishBit_cfg (s : State) : (finishBit s).cfg = s.cfg := by unfold finishBit; split <;> rfl
@[simp] theorem finishBit_channels (s : State) : (finishBit s).channels = s.channels := by unfold finishBit; split <;> rfl
@[simp] theorem finishBit_status (s : State) : (finishBit s).status = s.status := by unfold finishBit; split <;> rfl
@[simp] theorem finishBit_bstate (s : State) : (finishBit s).bstate = s.bstate := by unfold finishBit; split <;> rfl
@[simp] theorem finishBit_work (s : State) : (finishBit s).work = s.work := by unfold finishBit; split <;> rfl
@[simp] theorem finishBit_dch (s : State) : (finishBit s).dch = s.dch := by unfold finishBit; split <;> rfl
@[simp] theorem finishBit_gaprec (s : State) : (finishBit s).gaprec = s.gaprec := by unfold finishBit; split <;> rfl
@[simp] theorem finishBit_fbDraw (s : State) : (finishBit s).fbDraw = s.fbDraw := by unfold finishBit; split <;> rfl
@[simp] theorem finishBit_commands (s : State) : (finishBit s).commands = s.commands := by unfold finishBit; split <;> rfl
@[simp] theorem finishBit_agenda (s : State) : (finishBit s).agenda = s.agenda := by unfold finishBit; split <;> rfl
@[simp] theorem finishBit_choices (s : State) : (finishBit s).choices = s.choices := by unfold finishBit; split <;> rfl

@[simp] theorem consumeBit_cfg (bit : Bool) (s : State) : (consumeBit bit s).cfg = s.cfg := by unfold consumeBit; split <;> simp
@[simp] theorem consumeBit_channels (bit : Bool) (s : State) : (consumeBit bit s).channels = s.channels := by unfold consumeBit; split <;> simp
@[simp] theorem consumeBit_status (bit : Bool) (s : State) : (consumeBit bit s).status = s.status := by unfold consumeBit; split <;> simp
@[simp] theorem consumeBit_bstate (bit : Bool) (s : State) : (consumeBit bit s).bstate = s.bstate := by unfold consumeBit; split <;> simp
@[simp] theorem consumeBit_work (bit : Bool) (s : State) : (consumeBit bit s).work = s.work := by unfold consumeBit; split <;> simp
@[simp] theorem consumeBit_dch (bit : Bool) (s : State) : (consumeBit bit s).dch = s.dch := by unfold consumeBit; split <;> simp
@[simp] theorem consumeBit_gaprec (bit : Bool) (s : State) : (consumeBit bit s).gaprec = s.gaprec := by unfold consumeBit; split <;> simp
@[simp] theorem consumeBit_fbDraw (bit : Bool) (s : State) : (consumeBit bit s).fbDraw = s.fbDraw := by unfold consumeBit; split <;> simp
@[simp] theorem consumeBit_commands (bit : Bool) (s : State) : (consumeBit bit s).commands = s.commands := by unfold consumeBit; split <;> simp
@[simp] theorem consumeBit_agenda (bit : Bool) (s : State) : (consumeBit bit s).agenda = s.agenda := by unfold consumeBit; split <;> simp
@[simp] theorem consumeBit_choices (bit : Bool) (s : State) : (consumeBit bit s).choices = s.choices := by unfold consumeBit; split <;> simp

@[simp] theorem runCell_cfg (l h : Nat) (bit : Bool) (s : State) : (runCell l h bit s).cfg = s.cfg := by
  unfold runCell; dsimp only; repeat' (first | simp | split)
@[simp] theorem runCell_channels (l h : Nat) (bit : Bool) (s : State) : (runCell l h bit s).channels = s.channels := by
  unfold runCell; dsimp only; repeat' (first | simp | split)
@[simp] theorem runCell_status (l h : Nat) (bit : Bool) (s : State) : (runCell l h bit s).status = s.status := by
  unfold runCell; dsimp only; repeat' (first | simp | split)
@[simp] theorem runCell_bstate (l h : Nat) (bit : Bool) (s : State) : (runCell l h bit s).bstate = s.bstate := by
  unfold runCell; dsimp only; repeat' (first | simp | split)
@[simp] theorem runCell_work (l h : Nat) (bit : Bool) (s : State) : (runCell l h bit s).work = s.work := by
  unfold runCell; dsimp only; repeat' (first | simp | split)
@[simp] theorem runCell_dch (l h : Nat) (bit : Bool) (s : State) : (runCell l h bit s).dch = s.dch := by
  unfold runCell; dsimp only; repeat' (first | simp | split)
@[simp] theorem runCell_gaprec (l h : Nat) (bit : Bool) (s : State) : (runCell l h bit s).gaprec = s.gaprec := by
  unfold runCell; dsimp only; repeat' (first | simp | split)
@[simp] theorem runCell_fbDraw (l h : Nat) (bit : Bool) (s : State) : (runCell l h bit s).fbDraw = s.fbDraw := by
  unfold runCell; dsimp only; repeat' (first | simp | split)
@[simp] theorem runCell_commands (l h : Nat) (bit : Bool) (s : State) : (runCell l h bit s).commands = s.commands := by
  unfold runCell; dsimp only; repeat' (first | simp | split)
@[simp] theorem runCell_agenda (l h : Nat) (bit : Bool) (s : State) : (runCell l h bit s).agenda = s.agenda := by
  unfold runCell; dsimp only; repeat' (first | simp | split)
@[simp] theorem runCell_choices (l h : Nat) (bit : Bool) (s : State) : (runCell l h bit s).choices = s.choices := by
  unfold runCell; dsimp only; repeat' (first | simp | split)

end Sys2Proof.Machine
end

