-- ==== Sys2Proof/Laws/Exec.lean ====
section
/-!
SUPPORT. Each meaning, said once: it answers a next state exactly when its select condition holds, and then this one.
-/

namespace Sys2Proof.Machine

variable {s t : State}

/-- A guarded meaning answers a next state only where its guard holds. -/
theorem guard_next {p : Prop} [Decidable p] {x : Result} {r : Refusal} :
    (if p then x else .refused r) = .next t ↔ p ∧ x = .next t := by
  split <;> simp_all

theorem guard_not_next {p : Prop} [Decidable p] {x : Result} {r : Refusal} :
    (if p then .refused r else x) = .next t ↔ ¬p ∧ x = .next t := by
  split <;> simp_all

theorem next_inj {a : State} : (Host.Outcome.next a : Result) = .next t ↔ t = a := by
  simp [eq_comm]

theorem exists_chan {c : Nat} {p : Prop} :
    (∃ ch, s.chan? c = some ch ∧ p) ↔ (∃ ch, s.chan? c = some ch) ∧ p := by
  simp

theorem execCellSentinel_next (l : Nat) :
    execCellSentinel l s = .next t ↔
      cellSelected s = true ∧ t = endFrame .sentinel s := by
  simp only [execCellSentinel, guard_next, next_inj]

theorem execCellData0_next {l h : Nat} :
    execCellData0 l h s = .next t ↔
      (cellSelected s = true ∧ cellClass s.cfg h = .data0) ∧ (∃ ch, s.chan? s.dch = some ch) ∧
      t = runCell l h false s := by
  simp only [execCellData0, guard_next, withChan_next, next_inj, exists_chan, Bool.and_eq_true, beq_iff_eq,
    and_assoc]

theorem execCellData1_next {l h : Nat} :
    execCellData1 l h s = .next t ↔
      (cellSelected s = true ∧ cellClass s.cfg h = .data1) ∧ (∃ ch, s.chan? s.dch = some ch) ∧
      t = runCell l h true s := by
  simp only [execCellData1, guard_next, withChan_next, next_inj, exists_chan, Bool.and_eq_true, beq_iff_eq,
    and_assoc]

theorem execCellAnomalous_next {l h : Nat} :
    execCellAnomalous l h s = .next t ↔
      (cellSelected s = true ∧ isSentinel h = false ∧ isAnomalous s.cfg l h = true) ∧ t = recordAnomaly s := by
  simp only [execCellAnomalous, guard_next, next_inj, Bool.and_eq_true,
    Bool.not_eq_true', and_assoc]

theorem execCellInwindow_next {l h : Nat} :
    execCellInwindow l h s = .next t ↔
      (cellSelected s = true ∧ isSentinel h = false ∧ isAnomalous s.cfg l h = false) ∧ t = s := by
  simp only [execCellInwindow, guard_next, next_inj, Bool.and_eq_true,
    Bool.not_eq_true', and_assoc]

theorem execCellTurnaround_next (l : Nat) {h : Nat} :
    execCellTurnaround l h s = .next t ↔
      (cellSelected s = true ∧ atTurnaround s = true ∧ isSentinel h = false) ∧
      (∃ ch, s.chan? s.dch = some ch) ∧ t = passTurnaround s := by
  simp only [execCellTurnaround, guard_next, withChan_next, next_inj, exists_chan, Bool.and_eq_true,
    Bool.not_eq_true', and_assoc]

theorem execHeaderKnown_next {hb : Byte} :
    execHeaderKnown hb s = .next t ↔
      (headerSelected hb s = true ∧ tableRead s.cfg hb ≠ 0) ∧
      t = setBoundary (tableSkipIndex (tableRead s.cfg hb)) s := by
  simp only [execHeaderKnown, guard_next, next_inj, Bool.and_eq_true, bne_iff_ne, ne_eq,
    and_assoc]

theorem execHeaderDynamic_next {hb : Byte} :
    execHeaderDynamic hb s = .next t ↔
      (headerSelected hb s = true ∧ tableRead s.cfg hb = 0) ∧ t = leaveUnresolved s := by
  simp only [execHeaderDynamic, guard_next, next_inj, Bool.and_eq_true, beq_iff_eq,
    and_assoc]

theorem execHeader01_next :
    execHeader01 s = .next t ↔
      headerSelected 0x01 s = true ∧ t = setBoundary (tableSkipIndex (tableRead s.cfg 0x01)) s := by
  simp only [execHeader01, guard_next, next_inj]

theorem execHeader09_next :
    execHeader09 s = .next t ↔
      headerSelected 0x09 s = true ∧ t = setBoundary (tableSkipIndex (tableRead s.cfg 0x09)) s := by
  simp only [execHeader09, guard_next, next_inj]

theorem execEvtCaptureComplete_next {c : Nat} :
    execEvtCaptureComplete c s = .next t ↔
      s.bstate = .select ∧ ∃ ch, s.chan? c = some ch ∧ t = completeEntry c ch.gap s := by
  simp only [execEvtCaptureComplete, guard_next, withChan_next, next_inj, beq_iff_eq]

theorem execEvtCaptureError_next {c : Nat} :
    execEvtCaptureError c s = .next t ↔
      s.bstate = .select ∧ ∃ ch, s.chan? c = some ch ∧ t = handleError c ch.errsup s := by
  simp only [execEvtCaptureError, guard_next, withChan_next, next_inj, beq_iff_eq]

theorem execCmdDisableCapture_next {c : Nat} :
    execCmdDisableCapture c s = .next t ↔
      (∃ ch, s.chan? c = some ch) ∧ t = capCmd .disableCapture c s := by
  simp only [execCmdDisableCapture, withChan_next, next_inj, exists_chan]

theorem execCmdResetAndRearm_next {c : Nat} :
    execCmdResetAndRearm c s = .next t ↔
      (∃ ch, s.chan? c = some ch) ∧ t = capCmd .resetAndRearm c s := by
  simp only [execCmdResetAndRearm, withChan_next, next_inj, exists_chan]

theorem execSinkByte_next {ch : Nat} {value : Byte} :
    execSinkByte ch value s = .next t ↔
      byteDue ch value s = true ∧ t = completeByte s := by
  simp only [execSinkByte, guard_next, next_inj]

theorem execSinkSummary_next {r : Summary} :
    execSinkSummary r s = .next t ↔
      s.bstate = .finish ∧ ∃ ch, s.chan? s.dch = some ch ∧ r = summaryOf s ch.ovr ∧ t = finishFrame r s := by
  simp only [execSinkSummary, guard_next, withChan_next, next_inj, beq_iff_eq]

theorem execSinkError_next {c : Nat} :
    execSinkError c s = .next t ↔
      s.bstate = .select ∧ ∃ ch, s.chan? c = some ch ∧ ch.errsup = false ∧ t = latchError c s := by
  simp only [execSinkError, guard_next, guard_not_next, Bool.not_eq_true, withChan_next, next_inj, beq_iff_eq]

theorem execInFrameStart_next {c : Nat} :
    execInFrameStart c s = .next t ↔
      ∃ ch, s.chan? c = some ch ∧ ch.chstate = .armed ∧
      t = s.modifyChan c (fun ch => { ch with chstate := .capturing }) := by
  simp only [execInFrameStart, guard_next, withChan_next, next_inj]

theorem execInFrameStartCapturing_next {c : Nat} :
    execInFrameStartCapturing c s = .next t ↔
      ∃ ch, s.chan? c = some ch ∧ ch.chstate = .capturing ∧ t = s := by
  simp only [execInFrameStartCapturing, guard_next, withChan_next, next_inj]

theorem execInFrameStartOverrun_next {c : Nat} :
    execInFrameStartOverrun c s = .next t ↔
      ∃ ch, s.chan? c = some ch ∧ ch.chstate = .complete ∧ t = countOverrun c s := by
  simp only [execInFrameStartOverrun, guard_next, withChan_next, next_inj]

theorem execInCellWrite_next {c i : Nat} {v : Word} :
    execInCellWrite c i v s = .next t ↔
      ∃ ch, s.chan? c = some ch ∧
      (ch.owner = .hw ∧ ch.chstate = .capturing ∧ ch.stopped = false ∧ i = ch.wpos ∧ i < s.cfg.ncell) ∧
      t = cellWrite c i v s := by
  simp only [execInCellWrite, guard_next, withChan_next, next_inj, mayWrite_iff]

/-- A cell write is refused where it would break a duty, for whatever word (R86, D29). -/
theorem execInCellWrite_refused {c i : Nat} {ch : Channel} (h : s.chan? c = some ch)
    (hd : ¬(ch.owner = .hw ∧ ch.chstate = .capturing ∧ ch.stopped = false ∧ i = ch.wpos ∧ i < s.cfg.ncell)) (v : Word) :
    execInCellWrite c i v s = .refused .captureDuty := by
  rw [execInCellWrite, withChan_some h, if_neg (by rwa [mayWrite_iff])]

theorem execInCaptureDone_next {c : Nat} :
    execInCaptureDone c s = .next t ↔
      ∃ ch, s.chan? c = some ch ∧ ch.chstate = .capturing ∧
      t = setPending (ccBit c) (s.modifyChan c (fun ch => { ch with chstate := .complete })) := by
  simp only [execInCaptureDone, guard_next, withChan_next, next_inj]

theorem execInCaptureError_next {c : Nat} :
    execInCaptureError c s = .next t ↔
      ∃ ch, s.chan? c = some ch ∧ t = if ch.errsup then s else setPending (errBit c) s := by
  simp only [execInCaptureError, withChan_next, next_inj]

theorem execStepDispatchEntry_next :
    execStepDispatchEntry s = .next t ↔
      (s.bstate = .idle ∧ s.status ≠ 0) ∧ t = takeDispatch s := by
  simp only [execStepDispatchEntry, guard_next, next_inj, Bool.and_eq_true, beq_iff_eq, bne_iff_ne, ne_eq,
    and_assoc]

theorem execStepDecodeDone_next :
    execStepDecodeDone s = .next t ↔
      (s.bstate = .decode ∧ s.dec.stop ≠ .none) ∧ t = { s with bstate := .finish } := by
  simp only [execStepDecodeDone, guard_next, next_inj, Bool.and_eq_true, beq_iff_eq, bne_iff_ne, ne_eq,
    and_assoc]

theorem execStepFinish_next :
    execStepFinish s = .next t ↔
      s.bstate = .finish ∧ ∃ ch, s.chan? s.dch = some ch ∧ t = finishFrame (summaryOf s ch.ovr) s := by
  simp only [execStepFinish, guard_next, withChan_next, next_inj, beq_iff_eq]

theorem execStepClockTick_next :
    execStepClockTick s = .next t ↔
      t = tickGaps s := by
  simp only [execStepClockTick, next_inj]

theorem execStepReset_next :
    execStepReset s = .next t ↔
      t = resetAll s := by
  simp only [execStepReset, next_inj]

/-- A select step ends the invocation, or clears one pending bit and handles its event (R227). -/
theorem execStepSelect_next {b : Nat} :
    execStepSelect b s = .next t ↔
      s.bstate = .select ∧
        ((pickBit s.work b (2 * s.cfg.nch) = none ∧ t = endDispatch s) ∨
          ∃ j ch, pickBit s.work b (2 * s.cfg.nch) = some j ∧ s.chan? (bitChannel j) = some ch ∧
            t = if bitIsError j then handleError (bitChannel j) ch.errsup (clearPending j s)
              else completeEntry (bitChannel j) ch.gap (clearPending j s)) := by
  simp only [execStepSelect, guard_next, beq_iff_eq]
  refine and_congr_right fun _ => ?_
  cases hp : pickBit s.work b (2 * s.cfg.nch) with
  | none => simp only [next_inj, reduceCtorEq, false_and, exists_false, or_false, true_and]
  | some j =>
    simp only [withChan_next, reduceCtorEq, false_and, false_or, Option.some.injEq, exists_and_left,
      exists_eq_left']
    refine exists_congr fun ch => and_congr_right fun _ => ?_
    split <;> exact next_inj

/-- A decoder step ends the frame at the buffer end or at a sentinel, or runs the data cell at `CUR` (R172-R174). -/
theorem execStepDecode_next :
    execStepDecode s = .next t ↔
      running s = true ∧
        ((s.cfg.ncell ≤ s.dec.cur ∧ t = endFrame .noSentinel s) ∨
          (s.dec.cur < s.cfg.ncell ∧ (∃ ch, s.chan? s.dch = some ch) ∧
            t = let w := cellRead s s.dch s.dec.cur
              if cellHigh s.cfg w = 0 then endFrame .sentinel s
              else runCell (cellLow s.cfg w) (cellHigh s.cfg w) (bitOf s.cfg (cellHigh s.cfg w)) s)) := by
  simp only [execStepDecode, guard_next]
  refine and_congr_right fun _ => ?_
  by_cases hc : s.dec.cur ≥ s.cfg.ncell
  · rw [if_pos hc]
    simp only [next_inj, ge_iff_le.1 hc, Nat.not_lt.2 hc, true_and, false_and, or_false]
  · rw [if_neg hc, withChan_next, exists_chan]
    have h1 : s.dec.cur < s.cfg.ncell := Nat.lt_of_not_le hc
    simp only [h1, Nat.not_le.2 h1, false_and, false_or, true_and]
    refine and_congr_right fun _ => ?_
    by_cases hz : cellHigh s.cfg (cellRead s s.dch s.dec.cur) = 0
    · rw [if_pos hz, (cellClass_sentinel _ _).2 hz]; exact next_inj
    · rw [if_neg hz, cellClass_data _ hz]
      cases bitOf s.cfg (cellHigh s.cfg (cellRead s s.dch s.dec.cur)) <;> exact next_inj

end Sys2Proof.Machine
end

