-- ==== Sys2Proof/Laws/Channels.lean ====
section
/-! SUPPORT. What executing an instruction can do to one channel, said once. -/

namespace Sys2Proof.Machine

/-- Every way in which executing an instruction can change channel `c`: it stays as it was, or one of eleven updates, each
with the instruction (or the command) that makes it. -/
theorem exec_channel {i : Instr} {s t : State} {c : Nat} {ch ch' : Channel} (h : exec i s = .next t)
    (hc : s.chan? c = some ch) (hc' : t.chan? c = some ch') :
    ch' = ch ∨
    (ch' = { ch with gap := (ch.gap + 1) % 2 ^ s.cfg.gw } ∧ i = .stepClockTick) ∨
    (ch' = { Channel.reset with draw := ch.draw + 1 } ∧ i = .stepReset) ∨
    (ch' = { ch with chstate := .capturing } ∧ i = .inFrameStart c ∧ ch.chstate = .armed) ∨
    (ch' = { ch with ovr := min (ch.ovr + 1) (2 ^ s.cfg.ow - 1) } ∧ i = .inFrameStartOverrun c) ∨
    (∃ j v, ch' = { ch with cb := ch.cb.write j { word := v, fresh := true }, wpos := j + 1 } ∧
      i = .inCellWrite c j v ∧
      ch.owner = .hw ∧ ch.chstate = .capturing ∧ ch.stopped = false ∧ j = ch.wpos ∧ j < s.cfg.ncell) ∨
    (ch' = { ch with chstate := .complete } ∧ i = .inCaptureDone c ∧ ch.chstate = .capturing) ∨
    (ch' = { ch with errsup := true }) ∨
    (ch' = { ch with stopped := true } ∧ i = .cmdDisableCapture c) ∨
    (ch' = obeyCommand .resetAndRearm ch ∧ i = .cmdResetAndRearm c) ∨
    (ch' = { ch with stopped := true, owner := .sw, gap := 0 } ∧
      t.commands = s.commands ++ [{ op := .disableCapture, ch := c }] ∧
      (i = .evtCaptureComplete c ∨ ∃ b, i = .stepSelect b)) ∨
    (ch' = { obeyCommand .resetAndRearm ch with owner := .hw, chstate := .armed } ∧
      t.commands = s.commands ++ [{ op := .resetAndRearm, ch := c }] ∧ s.bstate = .finish ∧ s.dch = c ∧
      (i = .stepFinish ∨ ∃ r, i = .sinkSummary r)) := by
  have same : t.channels = s.channels → ch' = ch := by
    intro e; rw [chan?_of_channels e, hc] at hc'; cases hc'; rfl
  have upd : ∀ (d : Nat) (f : Channel → Channel), t.channels = s.channels.modify d f →
      ch' = ch ∨ (d = c ∧ ch' = f ch) := by
    intro d f e
    have : t.chan? c = (s.modifyChan d f).chan? c := chan?_of_channels e c
    rw [hc', chan?_modifyChan, hc] at this
    split at this
    · next hd => right; exact ⟨hd, by simpa using this⟩
    · left; simpa using this
  have upd2 : ∀ (d : Nat) (f g : Channel → Channel), t.channels = (s.channels.modify d f).modify d g →
      ch' = ch ∨ (d = c ∧ ch' = g (f ch)) := by
    intro d f g e
    have := upd d (g ∘ f) (by rw [e, List.modify_modify_eq])
    exact this
  cases i with
  | cellSentinel l => obtain ⟨_, rfl⟩ := (execCellSentinel_next l).1 h; exact .inl (same rfl)
  | cellData0 l hh => obtain ⟨_, _, rfl⟩ := execCellData0_next.1 h; exact .inl (same (by simp))
  | cellData1 l hh => obtain ⟨_, _, rfl⟩ := execCellData1_next.1 h; exact .inl (same (by simp))
  | cellAnomalous l hh => obtain ⟨_, rfl⟩ := execCellAnomalous_next.1 h; exact .inl (same (by simp))
  | cellInwindow l hh => obtain ⟨_, rfl⟩ := execCellInwindow_next.1 h; exact .inl (same (by simp))
  | cellTurnaround l hh => obtain ⟨_, _, rfl⟩ := (execCellTurnaround_next l).1 h; exact .inl (same (by simp))
  | headerKnown hb => obtain ⟨_, rfl⟩ := execHeaderKnown_next.1 h; exact .inl (same (by simp))
  | headerDynamic hb => obtain ⟨_, rfl⟩ := execHeaderDynamic_next.1 h; exact .inl (same (by simp))
  | header01 => obtain ⟨_, rfl⟩ := execHeader01_next.1 h; exact .inl (same (by simp))
  | header09 => obtain ⟨_, rfl⟩ := execHeader09_next.1 h; exact .inl (same (by simp))
  | evtCaptureComplete d =>
    obtain ⟨_, ch2, h2, rfl⟩ := execEvtCaptureComplete_next.1 h
    rcases upd2 _ _ _ (completeEntry_channels _ _ _) with e | ⟨rfl, e⟩
    · exact .inl e
    · simp only [obeyCommand] at e; simp [e]
  | evtCaptureError d =>
    obtain ⟨_, ch2, h2, rfl⟩ := execEvtCaptureError_next.1 h
    unfold handleError at *
    split at hc' <;> rename_i he
    · exact .inl (same (by simp [he]))
    · simp only [he] at upd
      rcases upd d _ (latchError_channels _ _) with e | ⟨rfl, e⟩
      · exact .inl e
      · simp [e]
  | cmdDisableCapture d =>
    obtain ⟨_, rfl⟩ := execCmdDisableCapture_next.1 h
    rcases upd d _ (capCmd_channels _ _ _) with e | ⟨rfl, e⟩
    · exact .inl e
    · simp only [obeyCommand] at e; simp [e]
  | cmdResetAndRearm d =>
    obtain ⟨_, rfl⟩ := execCmdResetAndRearm_next.1 h
    rcases upd d _ (capCmd_channels _ _ _) with e | ⟨rfl, e⟩
    · exact .inl e
    · simp [e]
  | sinkByte d v => obtain ⟨_, rfl⟩ := execSinkByte_next.1 h; exact .inl (same (by simp))
  | sinkSummary r =>
    obtain ⟨hb, ch2, h2, _, rfl⟩ := execSinkSummary_next.1 h
    rcases upd2 _ _ _ (finishFrame_channels _ _) with e | ⟨rfl, e⟩
    · exact .inl e
    · simp [e, hb]
  | sinkError d =>
    obtain ⟨hb, ch2, h2, _, rfl⟩ := execSinkError_next.1 h
    rcases upd d _ (latchError_channels _ _) with e | ⟨rfl, e⟩
    · exact .inl e
    · simp [e]
  | inFrameStart d =>
    obtain ⟨ch2, h2, h3, rfl⟩ := execInFrameStart_next.1 h
    rcases upd d _ (modifyChan_channels _ _ _) with e | ⟨rfl, e⟩
    · exact .inl e
    · rw [hc] at h2; cases h2; simp [e, h3]
  | inFrameStartCapturing d => obtain ⟨ch2, h2, h3, rfl⟩ := execInFrameStartCapturing_next.1 h; exact .inl (same rfl)
  | inFrameStartOverrun d =>
    obtain ⟨ch2, h2, h3, rfl⟩ := execInFrameStartOverrun_next.1 h
    rcases upd d _ (countOverrun_channels _ _) with e | ⟨rfl, e⟩
    · exact .inl e
    · simp [e]
  | inCellWrite d j v =>
    obtain ⟨ch2, h2, h3, rfl⟩ := execInCellWrite_next.1 h
    rcases upd d _ (cellWrite_channels _ _ _ _) with e | ⟨rfl, e⟩
    · exact .inl e
    · rw [hc] at h2; cases h2; right; right; right; right; right; left; exact ⟨j, v, e, rfl, h3⟩
  | inCaptureDone d =>
    obtain ⟨ch2, h2, h3, rfl⟩ := execInCaptureDone_next.1 h
    rcases upd d _ rfl with e | ⟨rfl, e⟩
    · exact .inl e
    · rw [hc] at h2; cases h2; simp [e, h3]
  | inCaptureError d =>
    obtain ⟨ch2, h2, rfl⟩ := execInCaptureError_next.1 h
    exact .inl (same (by split <;> rfl))
  | stepDispatchEntry => obtain ⟨_, rfl⟩ := execStepDispatchEntry_next.1 h; exact .inl (same rfl)
  | stepSelect b =>
    obtain ⟨_, h⟩ := execStepSelect_next.1 h
    rcases h with ⟨_, rfl⟩ | ⟨j, ch2, hp, h2, ht⟩
    · exact .inl (same rfl)
    · split at ht
      · unfold handleError at ht; split at ht
        · subst ht; exact .inl (same rfl)
        · subst ht
          rcases upd _ _ (latchError_channels _ _) with e | ⟨rfl, e⟩
          · exact .inl e
          · simp [e]
      · subst ht
        rcases upd2 _ _ _ (completeEntry_channels _ _ _) with e | ⟨rfl, e⟩
        · exact .inl e
        · simp only [obeyCommand] at e; simp [e]
  | stepDecode =>
    obtain ⟨_, h⟩ := execStepDecode_next.1 h
    rcases h with ⟨_, rfl⟩ | ⟨_, _, rfl⟩
    · exact .inl (same rfl)
    · refine .inl (same ?_); dsimp only; split <;> simp
  | stepDecodeDone => obtain ⟨_, rfl⟩ := execStepDecodeDone_next.1 h; exact .inl (same rfl)
  | stepFinish =>
    obtain ⟨hb, ch2, h2, rfl⟩ := execStepFinish_next.1 h
    rcases upd2 _ _ _ (finishFrame_channels _ _) with e | ⟨rfl, e⟩
    · exact .inl e
    · simp [e, hb]
  | stepClockTick =>
    have := execStepClockTick_next.1 h; subst this
    simp [State.chan?] at hc' hc; rw [hc] at hc'; simp at hc'; simp [← hc']
  | stepReset =>
    have := execStepReset_next.1 h; subst this
    simp [State.chan?] at hc' hc; rw [hc] at hc'; simp at hc'; simp [← hc']

/-- No instruction changes the number of channels. -/
theorem exec_channels_length {i : Instr} {s t : State} (h : exec i s = .next t) :
    t.channels.length = s.channels.length := by
  cases i with
  | cellSentinel l => obtain ⟨_, rfl⟩ := (execCellSentinel_next l).1 h; rfl
  | cellData0 l hh => obtain ⟨_, _, rfl⟩ := execCellData0_next.1 h; simp
  | cellData1 l hh => obtain ⟨_, _, rfl⟩ := execCellData1_next.1 h; simp
  | cellAnomalous l hh => obtain ⟨_, rfl⟩ := execCellAnomalous_next.1 h; simp
  | cellInwindow l hh => obtain ⟨_, rfl⟩ := execCellInwindow_next.1 h; simp
  | cellTurnaround l hh => obtain ⟨_, _, rfl⟩ := (execCellTurnaround_next l).1 h; simp
  | headerKnown hb => obtain ⟨_, rfl⟩ := execHeaderKnown_next.1 h; simp
  | headerDynamic hb => obtain ⟨_, rfl⟩ := execHeaderDynamic_next.1 h; simp
  | header01 => obtain ⟨_, rfl⟩ := execHeader01_next.1 h; simp
  | header09 => obtain ⟨_, rfl⟩ := execHeader09_next.1 h; simp
  | evtCaptureComplete d => obtain ⟨_, ch2, h2, rfl⟩ := execEvtCaptureComplete_next.1 h; simp
  | evtCaptureError d => 
    obtain ⟨_, ch2, h2, rfl⟩ := execEvtCaptureError_next.1 h
    unfold handleError; split <;> simp
  | cmdDisableCapture d => obtain ⟨_, rfl⟩ := execCmdDisableCapture_next.1 h; simp
  | cmdResetAndRearm d => obtain ⟨_, rfl⟩ := execCmdResetAndRearm_next.1 h; simp
  | sinkByte d v => obtain ⟨_, rfl⟩ := execSinkByte_next.1 h; simp
  | sinkSummary r => obtain ⟨hb, ch2, h2, _, rfl⟩ := execSinkSummary_next.1 h; simp
  | sinkError d => obtain ⟨hb, ch2, h2, _, rfl⟩ := execSinkError_next.1 h; simp
  | inFrameStart d => obtain ⟨ch2, h2, h3, rfl⟩ := execInFrameStart_next.1 h; simp
  | inFrameStartCapturing d => obtain ⟨ch2, h2, h3, rfl⟩ := execInFrameStartCapturing_next.1 h; rfl
  | inFrameStartOverrun d => obtain ⟨ch2, h2, h3, rfl⟩ := execInFrameStartOverrun_next.1 h; simp
  | inCellWrite d j v => obtain ⟨ch2, h2, h3, rfl⟩ := execInCellWrite_next.1 h; simp
  | inCaptureDone d => obtain ⟨ch2, h2, h3, rfl⟩ := execInCaptureDone_next.1 h; simp
  | inCaptureError d => obtain ⟨ch2, h2, rfl⟩ := execInCaptureError_next.1 h; split <;> simp
  | stepDispatchEntry => obtain ⟨_, rfl⟩ := execStepDispatchEntry_next.1 h; simp
  | stepSelect b =>
    obtain ⟨_, h⟩ := execStepSelect_next.1 h
    rcases h with ⟨_, rfl⟩ | ⟨j, ch2, hp, h2, rfl⟩
    · simp
    · split
      · unfold handleError; split <;> simp
      · simp
  | stepDecode =>
    obtain ⟨_, h⟩ := execStepDecode_next.1 h
    rcases h with ⟨_, rfl⟩ | ⟨_, _, rfl⟩
    · simp
    · dsimp only; split <;> simp
  | stepDecodeDone => obtain ⟨_, rfl⟩ := execStepDecodeDone_next.1 h; rfl
  | stepFinish => obtain ⟨hb, ch2, h2, rfl⟩ := execStepFinish_next.1 h; simp
  | stepClockTick => have := execStepClockTick_next.1 h; subst this; simp
  | stepReset => have := execStepReset_next.1 h; subst this; simp

/-- A channel that exists still exists after an instruction. -/
theorem exec_chan_exists {i : Instr} {s t : State} {c : Nat} {ch : Channel} (h : exec i s = .next t)
    (hc : s.chan? c = some ch) : ∃ ch', t.chan? c = some ch' :=
  ⟨_, List.getElem?_eq_getElem (by rw [exec_channels_length h]; exact chan?_lt hc)⟩

end Sys2Proof.Machine
end

