-- ==== Sys2Proof/Laws/Decoder.lean ====
section
/-!
SUPPORT. What the sub-steps of a decoder step do to the decoder registers, and that a buffer's relabelling keeps its words.
-/

namespace Sys2Proof.Machine

theorem running_iff (s : State) : running s = true ↔ s.bstate = .decode ∧ s.dec.stop = .none := by
  simp [running]

/-! ## Sub-steps S3 to S5 write only the decoder registers -/

theorem resolveHeader_eq (s : State) : resolveHeader s = { s with dec := (resolveHeader s).dec } := by
  unfold resolveHeader applyEntry leaveUnresolved setBoundary; repeat' split
  all_goals rfl

theorem noteAnomaly_eq (l h : Nat) (s : State) :
    noteAnomaly l h s = { s with dec := (noteAnomaly l h s).dec } := by
  unfold noteAnomaly recordAnomaly setBoundary; dsimp only; repeat' split
  all_goals rfl

theorem passTurnaround_eq (s : State) : passTurnaround s = { s with dec := (passTurnaround s).dec } := by
  unfold passTurnaround endFrame; dsimp only; repeat' split
  all_goals rfl

/-! ## The registers they leave alone, and the ones they set -/

theorem resolveHeader_dec (s : State) :
    (resolveHeader s).dec = { s.dec with
      skipk := (resolveHeader s).dec.skipk, skipidx := (resolveHeader s).dec.skipidx } := by
  unfold resolveHeader applyEntry leaveUnresolved setBoundary; repeat' split
  all_goals rfl

theorem noteAnomaly_dec (l h : Nat) (s : State) :
    (noteAnomaly l h s).dec =
      if isAnomalous s.cfg l h then
        { s.dec with
          anomv := true
          anomidx := s.dec.cur
          skipk := if s.dec.skipk = .unresolved then .resolved else s.dec.skipk
          skipidx := if s.dec.skipk = .unresolved then s.dec.cur else s.dec.skipidx }
      else s.dec := by
  unfold noteAnomaly recordAnomaly setBoundary; dsimp only
  split
  · split <;> rfl
  · rfl

theorem passTurnaround_dec (s : State) :
    (passTurnaround s).dec =
      { s.dec with
        tataken := true
        cur := s.dec.cur + 1
        stop := (passTurnaround s).dec.stop } := by
  unfold passTurnaround endFrame; dsimp only; repeat' split
  all_goals rfl

/-! ## Sub-steps S6 to S8 -/

/-- A data bit ends the frame at the capacity, or enters the accumulator and, on every eighth bit, completes a byte. -/
theorem consumeBit_cases (bit : Bool) (s : State) :
    (s.dec.nb = 8 * s.cfg.nbyte ∧ consumeBit bit s = endFrame .frameTooLong s) ∨
    (s.dec.nb ≠ 8 * s.cfg.nbyte ∧ (s.dec.nb + 1) % 8 ≠ 0 ∧
      consumeBit bit s = { s with
        dec := { s.dec with acc := shiftIn s.dec.acc bit, nb := s.dec.nb + 1, cur := s.dec.cur + 1 } }) ∨
    (s.dec.nb ≠ 8 * s.cfg.nbyte ∧ (s.dec.nb + 1) % 8 = 0 ∧
      consumeBit bit s = { s with
        fb := s.fb.write s.dec.len (shiftIn s.dec.acc bit)
        sink := s.sink ++ [.byte s.dch (shiftIn s.dec.acc bit)]
        dec := { s.dec with acc := 0, nb := s.dec.nb + 1, len := s.dec.len + 1, cur := s.dec.cur + 1 } }) := by
  unfold consumeBit
  by_cases hc : s.dec.nb = 8 * s.cfg.nbyte
  · exact .inl ⟨hc, if_pos hc⟩
  · rw [if_neg hc]
    by_cases hb : (s.dec.nb + 1) % 8 = 0
    · exact .inr (.inr ⟨hc, hb, by
        rw [finishBit, if_pos (show (assembleBit bit s).dec.nb % 8 = 0 from hb)]; rfl⟩)
    · exact .inr (.inl ⟨hc, hb, by
        rw [finishBit, if_neg (show ¬(assembleBit bit s).dec.nb % 8 = 0 from hb)]; rfl⟩)

/-! ## Channels and their buffers -/

/-- An update of a channel that exists sets its position in the list. -/
theorem modify_eq_set {s : State} {c : Nat} {ch : Channel} (h : s.chan? c = some ch) (f : Channel → Channel) :
    s.channels.modify c f = s.channels.set c (f ch) := by
  rw [List.modify_eq_set_getElem?]
  simp only [State.chan?] at h; simp [h]

/-- Relabelling the cells of a buffer as an earlier capture's keeps every word. -/
theorem read_stale (m : Memory CbEntry) (j : Nat) :
    Memory.read (m.map (fun e => (e.1, { e.2 with fresh := false }))) j =
      (m.read j).map (fun e => { e with fresh := false }) := by
  induction m with
  | nil => rfl
  | cons e m ih => obtain ⟨b, u⟩ := e; simp only [List.map_cons, Memory.read_cons, ih]; split <;> rfl

end Sys2Proof.Machine
end

