-- ==== Sys2Proof/Laws/PerInstr.lean ====
section
/-!
SUPPORT. The family DecodedFormat: an instruction is decoded only from a word of its own row's format, so a turn of the
agenda runs an instruction of the format it names.
-/

namespace Sys2Proof.Laws.DecodedFormat

/-- Whatever word of whatever format decodes to the instruction, the format is its row's. -/
def Statement (i : Instr) : Prop :=
  ∀ (ctx : DecodeContext) (fmt : Format) (w : Word), decode ctx fmt w = .ok i → i.format = fmt

theorem frameStartRow_format (c : Nat) (st : ChState) : (frameStartRow c st).format = .captureInput := by
  cases st <;> rfl

/-- The decoder of each format answers instructions of that format only. -/
theorem decode_format (ctx : DecodeContext) (fmt : Format) (w : Word) (i : Instr) (h : decode ctx fmt w = .ok i) :
    i.format = fmt := by
  cases fmt
  case sinkRecord =>
    simp only [decode, decodeRecord, decodeSummary] at h
    repeat' split at h
    all_goals first | (cases h; rfl) | cases h
  case captureInput =>
    simp only [decode, decodeInput] at h
    repeat' split at h
    all_goals first | (cases h; done) | (cases h; rfl) | (cases h; exact frameStartRow_format _ _)
  all_goals
    simp only [decode, decodeCell, decodeAttribute, decodePosition, decodeHeader, decodeStatusBit, decodeCommand,
      decodeStep] at h
    repeat' split at h
    all_goals first | (cases h; rfl) | cases h

theorem cellSentinel (l : Nat) : Statement (.cellSentinel l) :=
  fun ctx fmt w => decode_format ctx fmt w _

theorem cellData0 (l h : Nat) : Statement (.cellData0 l h) :=
  fun ctx fmt w => decode_format ctx fmt w _

theorem cellData1 (l h : Nat) : Statement (.cellData1 l h) :=
  fun ctx fmt w => decode_format ctx fmt w _

theorem cellAnomalous (l h : Nat) : Statement (.cellAnomalous l h) :=
  fun ctx fmt w => decode_format ctx fmt w _

theorem cellInwindow (l h : Nat) : Statement (.cellInwindow l h) :=
  fun ctx fmt w => decode_format ctx fmt w _

theorem cellTurnaround (l h : Nat) : Statement (.cellTurnaround l h) :=
  fun ctx fmt w => decode_format ctx fmt w _

theorem headerKnown (hb : Byte) : Statement (.headerKnown hb) :=
  fun ctx fmt w => decode_format ctx fmt w _

theorem headerDynamic (hb : Byte) : Statement (.headerDynamic hb) :=
  fun ctx fmt w => decode_format ctx fmt w _

theorem header01 : Statement .header01 :=
  fun ctx fmt w => decode_format ctx fmt w _

theorem header09 : Statement .header09 :=
  fun ctx fmt w => decode_format ctx fmt w _

theorem evtCaptureComplete (c : Nat) : Statement (.evtCaptureComplete c) :=
  fun ctx fmt w => decode_format ctx fmt w _

theorem evtCaptureError (c : Nat) : Statement (.evtCaptureError c) :=
  fun ctx fmt w => decode_format ctx fmt w _

theorem cmdDisableCapture (c : Nat) : Statement (.cmdDisableCapture c) :=
  fun ctx fmt w => decode_format ctx fmt w _

theorem cmdResetAndRearm (c : Nat) : Statement (.cmdResetAndRearm c) :=
  fun ctx fmt w => decode_format ctx fmt w _

theorem sinkByte (ch : Nat) (value : Byte) : Statement (.sinkByte ch value) :=
  fun ctx fmt w => decode_format ctx fmt w _

theorem sinkSummary (r : Summary) : Statement (.sinkSummary r) :=
  fun ctx fmt w => decode_format ctx fmt w _

theorem sinkError (ch : Nat) : Statement (.sinkError ch) :=
  fun ctx fmt w => decode_format ctx fmt w _

theorem inFrameStart (c : Nat) : Statement (.inFrameStart c) :=
  fun ctx fmt w => decode_format ctx fmt w _

theorem inFrameStartCapturing (c : Nat) : Statement (.inFrameStartCapturing c) :=
  fun ctx fmt w => decode_format ctx fmt w _

theorem inFrameStartOverrun (c : Nat) : Statement (.inFrameStartOverrun c) :=
  fun ctx fmt w => decode_format ctx fmt w _

theorem inCellWrite (c i : Nat) (v : Word) : Statement (.inCellWrite c i v) :=
  fun ctx fmt w => decode_format ctx fmt w _

theorem inCaptureDone (c : Nat) : Statement (.inCaptureDone c) :=
  fun ctx fmt w => decode_format ctx fmt w _

theorem inCaptureError (c : Nat) : Statement (.inCaptureError c) :=
  fun ctx fmt w => decode_format ctx fmt w _

theorem stepDispatchEntry : Statement .stepDispatchEntry :=
  fun ctx fmt w => decode_format ctx fmt w _

theorem stepSelect (b : Nat) : Statement (.stepSelect b) :=
  fun ctx fmt w => decode_format ctx fmt w _

theorem stepDecode : Statement .stepDecode :=
  fun ctx fmt w => decode_format ctx fmt w _

theorem stepDecodeDone : Statement .stepDecodeDone :=
  fun ctx fmt w => decode_format ctx fmt w _

theorem stepFinish : Statement .stepFinish :=
  fun ctx fmt w => decode_format ctx fmt w _

theorem stepClockTick : Statement .stepClockTick :=
  fun ctx fmt w => decode_format ctx fmt w _

theorem stepReset : Statement .stepReset :=
  fun ctx fmt w => decode_format ctx fmt w _

end Sys2Proof.Laws.DecodedFormat
end

