-- ==== Sys2Proof/Laws/Step.lean ====
section
/-! SUPPORT. What one step can do: whose turn it takes from the agenda, and which instruction it then executes. -/

namespace Sys2Proof.Machine

variable {s t : State}

/-- The state in which the step's instruction runs: only the agenda and the count of free choices have moved. -/
theorem fetch_run {i : Instr} {u : State} (h : fetch s = .run i u) :
    (∃ b, enabledStep s b = some i ∧
      ((s.agenda = [] ∧ u = { s with choices := s.choices + 1 }) ∨
        ∃ k rest, s.agenda = .pwd k :: rest ∧ u = { s with agenda := rest })) ∨
    (∃ fmt w rest, s.agenda = .packet fmt w :: rest ∧ decode s.context fmt w = .ok i ∧
      u = { s with agenda := rest }) := by
  unfold fetch at h
  split at h
  · next ha =>
    split at h
    · next he => cases h; exact .inl ⟨_, he, .inl ⟨ha, rfl⟩⟩
    · cases h
  · next b rest ha =>
    split at h
    · next he => left; exact ⟨b, by simp_all⟩
    · simp_all
  · next fmt w rest ha =>
    split at h
    · next he => right; exact ⟨fmt, w, rest, by simp_all⟩
    · simp_all

/-- A step that answers a next state ran an instruction, or held the state of a block with no enabled step. -/
theorem step_next (h : step s = .next t) :
    (∃ i u, fetch s = .run i u ∧ exec i u = .next t) ∨ fetch s = .idle t := by
  unfold step at h
  split at h
  · next i u hf => exact .inl ⟨i, u, hf, h⟩
  · next u hf => cases h; exact .inr hf
  · cases h

/-- A block that holds its state is quiescent, and at most the agenda has moved. -/
theorem fetch_idle (h : fetch s = .idle t) :
    s.bstate = .idle ∧ s.status = 0 ∧ ((s.agenda = [] ∧ t = s) ∨
      ∃ k rest, s.agenda = .pwd k :: rest ∧ t = { s with agenda := rest }) := by
  have key : ∀ b, enabledStep s b = none → s.bstate = .idle ∧ s.status = 0 := by
    intro b hb
    unfold enabledStep at hb
    split at hb
    · next hi => split at hb <;> simp_all
    · cases hb
    · split at hb <;> cases hb
    · cases hb
  unfold fetch at h
  split at h
  · next ha =>
    split at h
    · cases h
    · next he => cases h; exact ⟨(key _ he).1, (key _ he).2, .inl ⟨ha, rfl⟩⟩
  · next b rest ha =>
    split at h
    · cases h
    · next he => cases h; exact ⟨(key _ he).1, (key _ he).2, .inr ⟨b, rest, ha, rfl⟩⟩
  · split at h <;> cases h

/-- The block's own step is one of its five internal steps. -/
theorem enabledStep_format {b : Nat} {i : Instr} (h : enabledStep s b = some i) : i.format = .internalStep := by
  unfold enabledStep at h
  split at h
  · split at h <;> cases h; rfl
  · cases h; rfl
  · split at h <;> cases h <;> rfl
  · cases h; rfl

end Sys2Proof.Machine
end

