-- ==== Sys2Proof/Machine/Script.lean ====
section
/-!
DEFINITION. The event scripts of R116 and the cell shorthands of R117, as turns of the agenda. A script is one of the
interleavings the model admits (R19): the inputs in the order written, and the block moving only at `run`.
-/

namespace Sys2Proof.Machine

/-- One line of an event script (R116). -/
inductive ScriptLine where
  | frameStart (c : Nat)
  | cells (c : Nat) (cs : List (Nat × Nat))
  | captureDone (c : Nat)
  | captureError (c : Nat)
  | tick (n : Nat)
  | run
  deriving DecidableEq, Repr

/-- The turn in which an instruction is executed from its own word. -/
def packetOf (cfg : Config) (i : Instr) : Turn := .packet i.format (encode cfg i)

/-- A number of turns of the block within which it is quiescent if no input comes between: a rest of an invocation and one
more whole one, each at most one entry, 2*NCH + 1 select steps and, per channel, NCELL + 1 decoder steps, the end of the
decode and the finish (R200, R236). -/
def runBound (cfg : Config) : Nat := 2 * (2 + 2 * cfg.nch + cfg.nch * (cfg.ncell + 3))

/-- The turns of one line (R116); at the `k`-th turn of a `run`, `dispatchOrder` names bit `order k`. A `cells` line is a
run of cell writes at indexes 0, 1, and so on. -/
def turnsOf (cfg : Config) (order : Nat → Nat) : ScriptLine → List Turn
  | .frameStart c => [packetOf cfg (.inFrameStart c)]
  | .cells c cs => cs.mapIdx (fun i lh => packetOf cfg (.inCellWrite c i (cellWord cfg lh.1 lh.2)))
  | .captureDone c => [packetOf cfg (.inCaptureDone c)]
  | .captureError c => [packetOf cfg (.inCaptureError c)]
  | .tick n => List.replicate n (packetOf cfg .stepClockTick)
  | .run => (List.range (runBound cfg)).map (fun k => .pwd (order k))

/-- The machine with a whole script as its agenda. -/
def State.withScript (s : State) (order : Nat → Nat) (script : List ScriptLine) : State :=
  { s with agenda := script.flatMap (turnsOf s.cfg order) }

/-! ## Cell shorthands at P = 8 (R117) -/

/-- `Z`, a data-0 cell in the window. -/
def cellZ : Nat × Nat := (6, 2)

/-- `O`, a data-1 cell in the window. -/
def cellO : Nat × Nat := (2, 6)

/-- `T`, an in-window cell for the turnaround position. -/
def cellT : Nat × Nat := (4, 4)

/-- `A`, an anomalous cell. -/
def cellA : Nat × Nat := (4, 30)

/-- `S`, a sentinel. -/
def cellS : Nat × Nat := (5, 0)

/-- `bytes(v)`, the eight cells of a byte, MSB first (R117). -/
def byteCells (v : Byte) : List (Nat × Nat) :=
  (List.range 8).map (fun k => if v.getLsbD (7 - k) then cellO else cellZ)

end Sys2Proof.Machine
end

