-- ==== Sys2Proof/Tests/Slice0.lean ====
section
/-!
SUPPORT. The model's own tests: one ill-formed term for each check of `WellFormed`, words written out from the tables of
30_encoding.md and 95_test_vectors.md, single steps of the vectors of 95_test_vectors.md, and for each obligation with
hypotheses a concrete state that meets them. Expected values come from the spec's vectors and rules, named in each comment.
-/

namespace Sys2Proof.Tests

open Sys2Proof Sys2Proof.Machine

/-! ## The small states of the tests -/

/-- Two channels, channel 0 ARMED and channel 1 COMPLETE, in the configuration of 95_test_vectors.md. -/
def ctx : DecodeContext := { cfg := Config.standard, chstates := [.armed, .complete] }

/-- A capture buffer holding these cell words from index 0. -/
def buffer (ws : List Word) : Memory CbEntry := ws.mapIdx (fun i w => (i, { word := w, fresh := true }))

/-- Channel 0 while its frame is decoded. -/
def taken (cb : Memory CbEntry) : Channel :=
  { Channel.reset with chstate := .complete, owner := .sw, stopped := true, cb := cb, wpos := cb.length }

/-- Channel 0 alone, capturing, its source about to write at index `n`. -/
def capturing (n : Nat) : State :=
  { State.reset with channels := [{ Channel.reset with chstate := .capturing, wpos := n }] }

/-- A frame of channel 0 being decoded: these cells in its buffer, this frame buffer, these decoder registers. -/
def decoding (cb : Memory CbEntry) (fb : Memory Byte) (d : Decoder) : State :=
  { State.reset with bstate := .decode, channels := [taken cb, Channel.reset], fb := fb, dec := d }

/-- The decoder after eight data cells of a header byte (R175). -/
def afterHeader : Decoder := { Decoder.start with cur := 8, nb := 8, len := 1 }

/-- The decoder after one more byte, at a known turnaround. -/
def atBoundary : Decoder :=
  { Decoder.start with cur := 8, nb := 8, len := 1, skipk := .resolved, skipidx := 8 }

/-- Only the cell at index 8 is in the buffer, and the next one. -/
def cellsAt8 (w v : Word) : Memory CbEntry := [(8, { word := w, fresh := true }), (9, { word := v, fresh := true })]

/-- A dispatch invocation with this snapshot, `CC[0]` and `ERR[1]` belonging to channels 0 and 1. -/
def selecting (work : Word) : State :=
  { State.reset with
    bstate := .select, work := work, status := work
    channels := [{ Channel.reset with chstate := .complete, gap := 500 }, Channel.reset] }

/-- The result is a next state of which `p` holds. -/
def after (r : Result) (p : State → Bool) : Bool :=
  match r with
  | .next t => p t
  | .fault _ => false
  | .refused _ => false

/-- The result is this refusal. -/
def refusedAs (r : Result) (why : Refusal) : Bool :=
  match r with
  | .next _ => false
  | .fault _ => false
  | .refused w => w == why

/-! ## WellFormed refuses an ill-formed term of each check -/

/-- A configuration that breaks each constraint of R9 and R33. -/
theorem test_config_wf :
    Config.standard.wf = true ∧
    ({ Config.standard with tw := 1 } : Config).wf = false ∧
    ({ Config.standard with p := 1 } : Config).wf = false ∧
    ({ Config.standard with p := 257 } : Config).wf = false ∧
    ({ Config.standard with nch := 0 } : Config).wf = false ∧
    ({ Config.standard with ncell := 0 } : Config).wf = false ∧
    ({ Config.standard with nbyte := 0 } : Config).wf = false ∧
    ({ Config.standard with gw := 0 } : Config).wf = false ∧
    ({ Config.standard with ow := 0 } : Config).wf = false ∧
    ({ Config.standard with clt := [(0x20, 0), (0x00, 0)] } : Config).wf = false ∧
    ({ Config.standard with clt := [(256, 0)] } : Config).wf = false ∧
    ({ Config.standard with clt := [(0x01, 2)] } : Config).wf = false ∧
    ({ Config.standard with clt := [(0x09, 2)] } : Config).wf = false := by decide

theorem test_context_wf : ctx.wf = true ∧ ({ ctx with chstates := [] } : DecodeContext).wf = false := by decide

/-- Cells: a field too wide, the wrong class, the wrong attribute, a sentinel where none may stand. -/
theorem test_wf_cells :
    wellFormed ctx (.cellSentinel 255) = true ∧ wellFormed ctx (.cellSentinel 256) = false ∧
    wellFormed ctx (.cellData0 6 2) = true ∧ wellFormed ctx (.cellData0 256 2) = false ∧
    wellFormed ctx (.cellData0 2 6) = false ∧ wellFormed ctx (.cellData0 2 0) = false ∧
    wellFormed ctx (.cellData1 2 6) = true ∧ wellFormed ctx (.cellData1 6 2) = false ∧
    wellFormed ctx (.cellData1 2 256) = false ∧
    wellFormed ctx (.cellAnomalous 4 30) = true ∧ wellFormed ctx (.cellAnomalous 4 4) = false ∧
    wellFormed ctx (.cellAnomalous 4 0) = false ∧ wellFormed ctx (.cellAnomalous 4 300) = false ∧
    wellFormed ctx (.cellInwindow 4 4) = true ∧ wellFormed ctx (.cellInwindow 4 30) = false ∧
    wellFormed ctx (.cellInwindow 8 0) = false ∧
    wellFormed ctx (.cellTurnaround 4 4) = true ∧ wellFormed ctx (.cellTurnaround 4 0) = false ∧
    wellFormed ctx (.cellTurnaround 256 4) = false := by decide

/-- Headers with the other rule's table entry; channels, indexes and widths out of range; the wrong capture state. -/
theorem test_wf_rest :
    wellFormed ctx (.headerKnown 0x00) = false ∧ wellFormed ctx (.headerKnown 0x01) = false ∧
    wellFormed ctx (.headerDynamic 0x00) = true ∧ wellFormed ctx (.headerDynamic 0x09) = false ∧
    wellFormed ctx (.evtCaptureComplete 2) = false ∧ wellFormed ctx (.evtCaptureError 2) = false ∧
    wellFormed ctx (.cmdDisableCapture 2) = false ∧ wellFormed ctx (.cmdResetAndRearm 2) = false ∧
    wellFormed ctx (.sinkByte 2 0) = false ∧ wellFormed ctx (.sinkError 2) = false ∧
    wellFormed ctx (.inFrameStart 0) = true ∧ wellFormed ctx (.inFrameStart 1) = false ∧
    wellFormed ctx (.inFrameStartCapturing 0) = false ∧ wellFormed ctx (.inFrameStartOverrun 0) = false ∧
    wellFormed ctx (.inFrameStartOverrun 1) = true ∧
    wellFormed ctx (.inCellWrite 0 63 0xFFFF) = true ∧ wellFormed ctx (.inCellWrite 0 64 0) = false ∧
    wellFormed ctx (.inCellWrite 2 0 0) = false ∧ wellFormed ctx (.inCellWrite 0 0 0x10000) = false ∧
    wellFormed ctx (.inCaptureDone 2) = false ∧ wellFormed ctx (.inCaptureError 2) = false ∧
    wellFormed ctx (.stepSelect 3) = true ∧ wellFormed ctx (.stepSelect 4) = false := by decide

/-- The record of V-P2's second channel. -/
def shortSummary : Summary :=
  { ch := 1, bytes := [], len := 0, anomValid := false, anomalyIndex := 0, skipKind := .pending, skipIndex := 0
    turnaroundTaken := false, stop := .sentinel, nbits := 5, partialByte := 0x16, cells := 5, gap := 7, overruns := 0 }

/-- Each field of a SUMMARY out of its width (R122). -/
theorem test_wf_summary :
    wellFormed ctx (.sinkSummary shortSummary) = true ∧
    wellFormed ctx (.sinkSummary { shortSummary with ch := 2 }) = false ∧
    wellFormed ctx (.sinkSummary { shortSummary with len := 1 }) = false ∧
    wellFormed ctx (.sinkSummary { shortSummary with len := 65, bytes := List.replicate 65 0 }) = false ∧
    wellFormed ctx (.sinkSummary { shortSummary with anomalyIndex := 2048 }) = false ∧
    wellFormed ctx (.sinkSummary { shortSummary with skipIndex := 2048 }) = false ∧
    wellFormed ctx (.sinkSummary { shortSummary with nbits := 1024 }) = false ∧
    wellFormed ctx (.sinkSummary { shortSummary with cells := 2048 }) = false ∧
    wellFormed ctx (.sinkSummary { shortSummary with gap := 65536 }) = false ∧
    wellFormed ctx (.sinkSummary { shortSummary with overruns := 16 }) = false := by decide

/-! ## Decoding, from words written out bit by bit -/

/-- V-B3 and the shorthand table of 95_test_vectors.md: `0xhhll` is the cell `(l, h)`. -/
theorem test_decode_cells :
    decode ctx .cellWord 0b0000000011111111 = .ok (.cellSentinel 255) ∧
    decode ctx .cellWord 0b0000000100000000 = .ok (.cellData0 0 1) ∧
    decode ctx .cellWord 0b0000010000000100 = .ok (.cellData0 4 4) ∧
    decode ctx .cellWord 0b0000010100000011 = .ok (.cellData1 3 5) ∧
    decode ctx .cellWord 0b1111111111111111 = .ok (.cellData1 255 255) ∧
    decode ctx .cellWord 0x10000 = .error .wordTooWide ∧
    decode ctx .cellAttribute 0b0001111000000100 = .ok (.cellAnomalous 4 30) ∧
    decode ctx .cellAttribute 0b0000001000000110 = .ok (.cellInwindow 6 2) ∧
    decode ctx .cellAttribute 0b0000000000000101 = .error .sentinelCell ∧
    decode ctx .cellPosition 0b0000010000000100 = .ok (.cellTurnaround 4 4) ∧
    decode ctx .cellPosition 0b0000000000000101 = .error .sentinelCell := by decide

/-- The header bytes of R109, and `0x20` with the test configuration's entry 0. -/
theorem test_decode_headers :
    decode ctx .headerByte 0b00000001 = .ok .header01 ∧
    decode ctx .headerByte 0b00001001 = .ok .header09 ∧
    decode ctx .headerByte 0b00100000 = .ok (.headerDynamic 0x20) ∧
    decode { ctx with cfg := { Config.standard with clt := [(0x22, 255)] } } .headerByte 0b00100010
      = .ok (.headerKnown 0x22) ∧
    decode ctx .headerByte 0x100 = .error .wordTooWide := by decide

/-- R112 on bits 0 to 3; R130's op codes; R131's kind codes, the channel above them. -/
theorem test_decode_events :
    decode ctx .statusBit 0 = .ok (.evtCaptureComplete 0) ∧
    decode ctx .statusBit 3 = .ok (.evtCaptureError 1) ∧
    decode ctx .statusBit 4 = .error .noSuchChannel ∧
    decode ctx .captureCommand 0b10 = .ok (.cmdDisableCapture 1) ∧
    decode ctx .captureCommand 0b11 = .ok (.cmdResetAndRearm 1) ∧
    decode ctx .captureCommand 0b100 = .error .wordTooWide ∧
    decode ctx .captureInput 0b000 = .ok (.inFrameStart 0) ∧
    decode ctx .captureInput 0b100 = .ok (.inFrameStartOverrun 1) ∧
    decode { ctx with chstates := [.capturing, .armed] } .captureInput 0b000 = .ok (.inFrameStartCapturing 0) ∧
    decode ctx .captureInput 0b0000001000000110_00000000101_0_01 = .ok (.inCellWrite 0 5 0x0206) ∧
    decode ctx .captureInput 0b0000001000000110_00001000000_0_01 = .error .indexOutOfRange ∧
    decode ctx .captureInput 0b110 = .ok (.inCaptureDone 1) ∧
    decode ctx .captureInput 0b111 = .ok (.inCaptureError 1) := by decide

/-- R120's tags: a BYTE record 0xA5 of channel 1, an ERROR record, the unused tag; the model's step codes. -/
theorem test_decode_records_and_steps :
    decode ctx .sinkRecord 0b10100101_1_00 = .ok (.sinkByte 1 0xA5) ∧
    decode ctx .sinkRecord 0b1_10 = .ok (.sinkError 1) ∧
    decode ctx .sinkRecord 0b11 = .error .reservedCode ∧
    decode ctx .internalStep 0b000 = .ok .stepDispatchEntry ∧
    decode ctx .internalStep 0b11_001 = .ok (.stepSelect 3) ∧
    decode ctx .internalStep 0b010 = .ok .stepDecode ∧
    decode ctx .internalStep 0b011 = .ok .stepDecodeDone ∧
    decode ctx .internalStep 0b100 = .ok .stepFinish ∧
    decode ctx .internalStep 0b101 = .error .reservedCode ∧
    decode ctx .clockInput 0 = .ok .stepClockTick ∧ decode ctx .clockInput 1 = .error .wordTooWide ∧
    decode ctx .resetInput 0 = .ok .stepReset ∧ decode ctx .resetInput 1 = .error .wordTooWide := by decide

/-- The SUMMARY of V-P2's channel 1, its fields in the order and the widths of R122 (CW 1, LW 7, IW 11, NW 10, GW 16,
OW 4), and the same word with the unused skip code 3. -/
theorem test_decode_summary :
    decode ctx .sinkRecord
      0b0000_0000000000000111_00000000101_00010110_0000000101_01_0_00000000000_00_00000000000_0_0000000_1_01
      = .ok (.sinkSummary shortSummary) ∧
    decode ctx .sinkRecord
      0b0000_0000000000000111_00000000101_00010110_0000000101_01_0_00000000000_11_00000000000_0_0000000_1_01
      = .error .reservedCode := by decide

/-- The host's two readings of a table word: the decoder's, and the very next step's (R141, R109). -/
theorem test_table_words :
    decodeTableWord 16 0x0000 = some (.cellSentinel 0) ∧ decodeTableWord 8 0x01 = some .header01 ∧
    decodeTableWord 8 0x09 = some .header09 ∧
    after (step (State.reset.withFetchWord 16 0x0000)) (fun t => t.dec.stop == .sentinel && t.agenda == []) = true ∧
    after (step (State.reset.withFetchWord 8 0x01)) (fun t => t.dec.skipk == .resolved && t.dec.skipidx == 8) = true ∧
    after (step (State.reset.withFetchWord 8 0x09)) (fun t => t.dec.skipidx == 24) = true := by decide

/-! ## Cell classification (V-B1, V-B2) -/

theorem test_bit_boundary :
    bitOf { Config.standard with p := 8 } 1 = false ∧ bitOf { Config.standard with p := 8 } 4 = false ∧
    bitOf { Config.standard with p := 8 } 5 = true ∧ bitOf { Config.standard with p := 8 } 255 = true ∧
    bitOf { Config.standard with p := 7 } 3 = false ∧ bitOf { Config.standard with p := 7 } 4 = true ∧
    bitOf { Config.standard with p := 2 } 1 = false ∧ bitOf { Config.standard with p := 2 } 2 = true := by decide

theorem test_anomaly_window :
    isAnomalous Config.standard 4 2 = true ∧ isAnomalous Config.standard 5 2 = false ∧
    isAnomalous Config.standard 7 2 = false ∧ isAnomalous Config.standard 8 2 = true ∧
    isAnomalous Config.standard 0 1 = true ∧ isAnomalous Config.standard 255 255 = true ∧
    isAnomalous Config.standard 1 5 = true := by decide

/-! ## Single decoder steps -/

/-- V-D1: `[S]` stops at index 0. -/
theorem test_empty_frame :
    after (exec .stepDecode (decoding (buffer [0x0005]) [] Decoder.start))
      (fun t => t.dec.stop == .sentinel && t.dec.cur == 0 && t.sink == []) = true := by decide

/-- The eighth bit of V-F1's header 0x01 completes the byte: accumulator 0b0000000 and a 1. -/
theorem test_header_byte_completes :
    after (exec .stepDecode (decoding [(7, { word := 0x0602, fresh := true })] []
        { Decoder.start with cur := 7, nb := 7 }))
      (fun t => t.fb == [(0, 0x01)] && t.sink == [.byte 0 0x01] && t.dec.len == 1 && t.dec.acc == 0
        && t.dec.cur == 8) = true := by decide

/-- V-F1: the step at index 8 resolves header 0x01, passes the turnaround and assembles cell 9, bit 1. -/
theorem test_turnaround_step :
    after (exec .stepDecode (decoding (cellsAt8 0x0404 0x0602) [(0, 0x01)] afterHeader))
      (fun t => t.dec.skipk == .resolved && t.dec.skipidx == 8 && t.dec.tataken && t.dec.cur == 10
        && t.dec.nb == 9 && t.dec.acc == 1 && t.dec.anomv == false) = true := by decide

/-- V-D7: with entry 0, an anomalous cell 8 becomes the turnaround in the same step. -/
theorem test_dynamic_turnaround :
    after (exec .stepDecode (decoding (cellsAt8 0x1E04 0x0602) [(0, 0x00)] afterHeader))
      (fun t => t.dec.anomv && t.dec.anomidx == 8 && t.dec.skipidx == 8 && t.dec.tataken && t.dec.cur == 10)
      = true := by decide

/-- V-D11: the anomalous cell after the turnaround is assembled, bit 1, and not recorded. -/
theorem test_blind_cell :
    after (exec .stepDecode (decoding (cellsAt8 0x0404 0x1E04) [(0, 0x01)] afterHeader))
      (fun t => t.dec.anomv == false && t.dec.acc == 1 && t.dec.nb == 9) = true := by decide

/-- V-D8: the sentinel right after the turnaround. -/
theorem test_sentinel_after_turnaround :
    after (exec .stepDecode (decoding (cellsAt8 0x0404 0x0005) [(0, 0x01)] afterHeader))
      (fun t => t.dec.stop == .sentinel && t.dec.cur == 9 && t.dec.tataken && t.dec.nb == 8) = true := by decide

/-- V-D14: the buffer's end right after the turnaround, NCELL = 9. -/
theorem test_buffer_end_after_turnaround :
    after (exec .stepDecode
        { decoding (cellsAt8 0x0404 0x0602) [(0, 0x01)] afterHeader with
          cfg := { Config.standard with ncell := 9 } })
      (fun t => t.dec.stop == .noSentinel && t.dec.cur == 9 && t.dec.tataken) = true := by decide

/-- V-D18: NBYTE = 1, the step at cell 8 resolves the header and then stops at the capacity. -/
theorem test_capacity_at_header :
    after (exec .stepDecode
        { decoding (cellsAt8 0x0206 0x0206) [(0, 0x00)] afterHeader with
          cfg := { Config.standard with nbyte := 1 } })
      (fun t => t.dec.stop == .frameTooLong && t.dec.cur == 8 && t.dec.skipk == .unresolved) = true := by decide

/-- V-D6: NCELL = 10, the eleventh step stops without a sentinel. -/
theorem test_no_sentinel :
    after (exec .stepDecode
        { decoding [] [] { Decoder.start with cur := 10, nb := 10 } with
          cfg := { Config.standard with ncell := 10 } })
      (fun t => t.dec.stop == .noSentinel && t.dec.cur == 10) = true := by decide

/-- The example of R178: an anomaly in the header is recorded and moves nothing (V-D9). -/
theorem test_anomaly_in_header :
    after (exec .stepDecode (decoding (buffer [0x0206, 0x0206, 0x1E04]) [] { Decoder.start with cur := 2, nb := 2 }))
      (fun t => t.dec.anomv && t.dec.anomidx == 2 && t.dec.skipk == .pending && t.dec.acc == 1) = true := by decide

/-- R170: a decoder that is done takes no step; R231 moves it on. -/
theorem test_done_takes_no_step :
    refusedAs (exec .stepDecode (decoding [] [] { Decoder.start with stop := .sentinel })) .notSelected = true ∧
    after (exec .stepDecodeDone (decoding [] [] { Decoder.start with stop := .sentinel }))
      (fun t => t.bstate == .finish) = true := by decide

/-! ## Single dispatcher, capture-source, clock and reset steps -/

/-- The example of R226: `STATUS = 0b1001`. -/
theorem test_dispatch_entry :
    after (exec .stepDispatchEntry { State.reset with status := 0b1001 })
      (fun t => t.work == 0b1001 && t.bstate == .select && t.status == 0b1001) = true := by decide

/-- The examples of R227 and R229: `CC[0]` first, with `GAP[0] = 500`. -/
theorem test_select_complete :
    after (exec (.stepSelect 0) (selecting 0b1001))
      (fun t => t.work == 0b1000 && t.status == 0b1000 && t.gaprec == 500 && t.bstate == .decode && t.dch == 0
        && t.commands == [{ op := .disableCapture, ch := 0 }]
        && (t.chan? 0).any (fun ch => ch.gap == 0 && ch.owner == .sw)) = true := by decide

/-- R227's other order: `ERR[1]` first; the select step after the last bit ends the invocation. -/
theorem test_select_error :
    after (exec (.stepSelect 3) (selecting 0b1001))
      (fun t => t.work == 0b0001 && t.bstate == .select && t.sink == [.error 1]
        && (t.chan? 1).any (fun ch => ch.errsup)) = true ∧
    after (exec (.stepSelect 3) (selecting 0)) (fun t => t.bstate == .idle) = true := by decide

/-- V-Y1's summary: an empty frame is reported, the buffer handed back, the channel ARMED. -/
theorem test_finish :
    after (exec .stepFinish
        { decoding (buffer [0x0005]) [] { Decoder.start with stop := .sentinel } with bstate := .finish, gaprec := 100 })
      (fun t => t.sink == [.summary { shortSummary with ch := 0, nbits := 0, partialByte := 0, cells := 0, gap := 100 }]
        && t.commands == [{ op := .resetAndRearm, ch := 0 }] && t.bstate == .select
        && (t.chan? 0).any (fun ch => ch.owner == .hw && ch.chstate == .armed)) = true := by decide

/-- The examples of R221 and R224: ARMED to CAPTURING, then `STATUS[0] = 1`. -/
theorem test_capture_inputs :
    after (exec (.inFrameStart 0) State.reset) (fun t => (t.chan? 0).any (fun ch => ch.chstate == .capturing)) = true ∧
    after (exec (.inCaptureDone 0) { State.reset with channels := [{ Channel.reset with chstate := .capturing }] })
      (fun t => t.status == 1 && (t.chan? 0).any (fun ch => ch.chstate == .complete)) = true := by decide

/-- The example of R225, and a suppressed error (V-S4). -/
theorem test_capture_error :
    after (exec (.inCaptureError 1) State.reset) (fun t => t.status == 0b1000) = true ∧
    after (exec (.inCaptureError 0) { State.reset with channels := [{ Channel.reset with errsup := true }] })
      (fun t => t.status == 0) = true := by decide

/-- R240: one more lost frame, and saturation at 2^OW - 1 = 15. -/
theorem test_overrun :
    after (exec (.inFrameStartOverrun 0) (selecting 1)) (fun t => (t.chan? 0).any (fun ch => ch.ovr == 1)) = true ∧
    after (exec (.inFrameStartOverrun 0)
        { State.reset with channels := [{ Channel.reset with chstate := .complete, ovr := 15 }] })
      (fun t => (t.chan? 0).any (fun ch => ch.ovr == 15)) = true := by decide

/-- R223: cells are written while the source captures, in index order from 0 (its example's second cell is refused first and
taken after the first one); R86: not before. -/
theorem test_cell_write :
    after (exec (.inCellWrite 0 0 0x0206) (capturing 0)) (fun t => cellRead t 0 0 == 0x0206 &&
      after (exec (.inCellWrite 0 1 0x0005) t) (fun u => cellRead u 0 1 == 0x0005 && cellRead u 0 0 == 0x0206)) = true ∧
    refusedAs (exec (.inCellWrite 0 1 0x0005) (capturing 0)) .captureDuty = true ∧
    refusedAs (exec (.inCellWrite 0 0 0x0206) State.reset) .captureDuty = true := by decide

/-- R130: RESET_AND_REARM puts the write position at index 0 and lets a stopped source write; the cells stay (R237). -/
theorem test_rearm :
    after (exec (.cmdResetAndRearm 0) { State.reset with channels := [taken (buffer [0x0206, 0x0005])] })
      (fun t => t.commands == [{ op := .resetAndRearm, ch := 0 }] &&
        (t.chan? 0).any (fun ch => ch.wpos == 0 && !ch.stopped && ch.cb.map (·.2.word) == [0x0206, 0x0005])) = true := by
  decide

/-- R238 with GW = 16: the counter wraps; R300: reset from a decode gives IDLE, and the sink gets nothing. -/
theorem test_tick_and_reset :
    after (exec .stepClockTick { State.reset with channels := [{ Channel.reset with gap := 65535 }] })
      (fun t => (t.chan? 0).any (fun ch => ch.gap == 0)) = true ∧
    after (exec .stepReset (decoding (buffer [0x0005]) [(0, 1)] afterHeader))
      (fun t => t.bstate == .idle && t.dec == Decoder.start && t.sink == [] && t.commands == []
        && (t.chan? 0).any (fun ch => ch.owner == .hw && ch.chstate == .armed)) = true := by decide

/-- A step on an empty agenda right after reset holds the state (R281). -/
theorem test_reset_is_quiescent : after (step State.reset) (fun t => t == State.reset) = true := by decide

/-- The first line of a script is the first turn: `frameStart 0` (R116). -/
theorem test_script_turn :
    after (step (State.reset.withScript (fun _ => 0) [.frameStart 0, .captureDone 0]))
      (fun t => t.agenda.length == 1 && (t.chan? 0).any (fun ch => ch.chstate == .capturing)) = true := by decide

/-! ## Witnesses: for each obligation with hypotheses, a concrete state and operands that meet them all -/

/-- A frame of channel 0 at its turnaround, an anomalous cell 8 and a data-1 cell 9 in the buffer. -/
def boundaryState : State := decoding (cellsAt8 0x1E04 0x0602) [(0, 0x01)] atBoundary

/-- The same frame, with another sink, other commands, other counters of its channel and another second channel. -/
def boundaryTwin : State :=
  { boundaryState with
    sink := [.error 1]
    commands := [{ op := .disableCapture, ch := 1 }]
    channels := [{ taken (cellsAt8 0x1E04 0x0602) with gap := 7, ovr := 2, errsup := true },
      { Channel.reset with ovr := 3 }] }

/-- A frame of channel 0 whose header byte is `hb`, about to be resolved. -/
def headerState (hb : Byte) : State := decoding (cellsAt8 0x0404 0x0602) [(0, hb)] afterHeader

/-- A completed frame of one byte, its summary due. -/
def finishing : State :=
  { decoding (buffer [0x0206]) [(0, 0xA5)] { afterHeader with stop := .sentinel } with
    bstate := .finish
    sink := [.byte 0 0xA5] }

/-- `CC[0]` in the snapshot of a channel whose errors are suppressed. -/
def suppressed : State :=
  { selecting 1 with channels := [{ Channel.reset with errsup := true, chstate := .complete }] }

/-- A property of both channels of a two-channel state holds of every channel it has. -/
theorem both_channels {s : State} {a b : Channel} {p : Nat → Channel → Prop} (h : s.channels = [a, b]) (h0 : p 0 a)
    (h1 : p 1 b) : ∀ c ch, s.chan? c = some ch → p c ch := by
  intro c ch hc
  rw [State.chan?, h] at hc
  match c, hc with
  | 0, hc => cases hc; exact h0
  | 1, hc => cases hc; exact h1
  | n + 2, hc => simp at hc

theorem witness_encodings :
    ctx.wf = true ∧ wellFormed ctx (.cellData1 255 255) = true ∧ wellFormed ctx (.inCellWrite 1 63 0xFFFF) = true ∧
    wellFormed ctx (.sinkSummary shortSummary) = true ∧
    decode ctx .captureInput 0b100 = .ok (.inFrameStartOverrun 1) := by decide

/-- CellWordHasOneClass: each class at both ends of its range, P = 8. -/
theorem witness_cell_classes :
    0x00FF < 2 ^ (2 * ctx.cfg.tw) ∧ 0x00FF / 2 ^ ctx.cfg.tw = 0 ∧
    1 ≤ 0x0100 / 2 ^ ctx.cfg.tw ∧ 0x0100 / 2 ^ ctx.cfg.tw ≤ ctx.cfg.p / 2 ∧ 0x0404 / 2 ^ ctx.cfg.tw ≤ ctx.cfg.p / 2 ∧
    ctx.cfg.p / 2 + 1 ≤ 0x0503 / 2 ^ ctx.cfg.tw ∧ 0xFFFF < 2 ^ (2 * ctx.cfg.tw) ∧
    ctx.cfg.p / 2 + 1 ≤ 0xFFFF / 2 ^ ctx.cfg.tw := by decide

/-- StatusBitNamesEvent: the lowest and the highest bit of each kind, two channels. -/
theorem witness_status_bits :
    0 < 2 * ctx.cfg.nch ∧ 0 % 2 = 0 ∧ 2 < 2 * ctx.cfg.nch ∧ 2 % 2 = 0 ∧ 1 % 2 = 1 ∧ 3 < 2 * ctx.cfg.nch ∧ 3 % 2 = 1 := by
  decide

/-- WindowIsInclusive: durations 6 and 10 outside, 7 and 9 inside (V-B2). -/
theorem witness_window :
    decode ctx .cellAttribute 0x0204 = .ok (.cellAnomalous 4 2) ∧
    decode ctx .cellAttribute 0x0205 = .ok (.cellInwindow 5 2) ∧
    decode ctx .cellAttribute 0x0207 = .ok (.cellInwindow 7 2) ∧
    decode ctx .cellAttribute 0x0208 = .ok (.cellAnomalous 8 2) ∧ 0x0204 / 2 ^ ctx.cfg.tw ≠ 0 := by decide

/-- BytesAssembleMsbFirst: the eight bits of 0xA5. -/
theorem witness_byte_bits :
    [true, false, true, false, false, true, false, true].length = 8 ∧
    [true, false, true, false, false, true, false, true].foldl shiftIn (0 : Byte) = 0xA5 := by decide

/-- SentinelEndsFrame, DecodeStepStopsAtSentinel: a sentinel at the first and at the last index. -/
theorem witness_sentinel :
    (decoding (buffer [0x0005]) [] Decoder.start).dec.stop = .none ∧
    cellHigh Config.standard (cellRead (decoding (buffer [0x0005]) [] Decoder.start) 0 0) = 0 ∧
    (decoding [(63, { word := 0x0005, fresh := true })] [] { Decoder.start with cur := 63 }).dec.cur < 64 ∧
    cellHigh Config.standard
      (cellRead (decoding [(63, { word := 0x0005, fresh := true })] [] { Decoder.start with cur := 63 }) 0 63) = 0 := by
  decide

/-- DecodeStepStopsAtBufferEnd: `CUR` = NCELL = 64. -/
theorem witness_buffer_end :
    (decoding [] [] { Decoder.start with cur := 64 }).bstate = .decode ∧
    (decoding [] [] { Decoder.start with cur := 64 }).dec.stop = .none ∧
    (decoding [] [] { Decoder.start with cur := 64 }).dec.cur ≥ Config.standard.ncell := by decide

/-- PlainDataCellGivesItsBit: the seventh bit of a byte, the eighth, and a bit at the frame buffer's capacity (NBYTE = 64),
all on cell (6, 2). -/
theorem witness_plain_cell :
    ∀ d ∈ [{ Decoder.start with cur := 6, nb := 6 }, { Decoder.start with cur := 7, nb := 7 },
        { Decoder.start with cur := 63, nb := 512, len := 64, skipk := .unresolved }],
      (decoding [] [] d).dec.stop = .none ∧ (decoding [] [] d).dec.cur < 64 ∧
      (decoding [] [] d).chan? 0 = some (taken []) ∧ isAnomalous Config.standard 6 2 = false ∧
      ¬(d.skipk = .pending ∧ d.nb = 8) ∧ ¬(d.skipk = .resolved ∧ d.cur = d.skipidx) := by decide

/-- DataCellsComplete, TurnaroundIsPassed, CellAfterTurnaroundIsNotTested: at the turnaround, with both classes' ends. -/
theorem witness_turnaround :
    boundaryState.bstate = .decode ∧ boundaryState.dec.stop = .none ∧ boundaryState.dec.cur < 64 ∧
    boundaryState.chan? boundaryState.dch = some (taken (cellsAt8 0x1E04 0x0602)) ∧
    boundaryState.dec.skipk = .resolved ∧ boundaryState.dec.cur = boundaryState.dec.skipidx ∧
    cellHigh Config.standard (cellRead boundaryState 0 8) ≠ 0 ∧ 4 ≤ Config.standard.p / 2 ∧
    Config.standard.p / 2 + 1 ≤ 5 ∧
    after (exec .stepDecode boundaryState) (fun t => t.dec.anomidx == 8) = true := by decide

/-- TurnaroundIsPassed: each of its three outcomes (data, sentinel, buffer end at index 63 of 64). -/
theorem witness_turnaround_outcomes :
    after (exec (.cellTurnaround 4 4) boundaryState) (fun t => t.dec.stop == .none) = true ∧
    after (exec (.cellTurnaround 4 4) (decoding (cellsAt8 0x0404 0x0005) [(0, 0x01)] atBoundary))
      (fun t => t.dec.stop == .sentinel) = true ∧
    after (exec (.cellTurnaround 4 4) (decoding [] [(0, 0x01)] { atBoundary with cur := 63, skipidx := 63 }))
      (fun t => t.dec.stop == .noSentinel) = true := by decide

/-- The decoder-step statements: DecodeStepIsConsolidatedListing, DecodeStepWritesOnlyItsOwn, FrameIsBounded, and
DecodeStepReadsOnlyItsOwn with a second state that differs in the sink, the commands, the counters of its channel and the
other channel. -/
theorem witness_decode_step :
    after (exec .stepDecode boundaryState) (fun _ => true) = true ∧
    boundaryTwin.cfg = boundaryState.cfg ∧ boundaryTwin.dec = boundaryState.dec ∧
    boundaryTwin.bstate = boundaryState.bstate ∧ boundaryTwin.dch = boundaryState.dch ∧
    (boundaryTwin.chan? boundaryTwin.dch).isSome = (boundaryState.chan? boundaryState.dch).isSome ∧
    frameRead boundaryTwin 0 = frameRead boundaryState 0 ∧ boundaryTwin ≠ boundaryState := by decide

theorem witness_same_buffer : ∀ j, cellRead boundaryTwin 0 j = cellRead boundaryState 0 j := fun _ => rfl

/-- DecodeStepExecutesFetchedCell: the elements stored are in range. -/
theorem witness_fetched_cell : boundaryState.StoresInRange :=
  ⟨by decide, by decide⟩

/-- AnomalyIsRecorded on durations 6 and 10, with the boundary open and with it known; InWindowCellRecordsNothing on 7
and 9. -/
theorem witness_anomaly :
    after (exec (.cellAnomalous 4 2) (decoding [] [] { atBoundary with skipk := .unresolved }))
      (fun t => t.dec.skipidx == 8 && t.dec.skipk == .resolved) = true ∧
    after (exec (.cellAnomalous 8 2) (decoding [] [] { atBoundary with skipidx := 24 }))
      (fun t => t.dec.skipidx == 24 && t.dec.anomidx == 8) = true ∧
    after (exec (.cellInwindow 5 2) boundaryState) (fun t => t == boundaryState) = true ∧
    after (exec (.cellInwindow 7 2) boundaryState) (fun t => t == boundaryState) = true := by decide

/-- HeaderEntrySetsBoundary at the entries 0, 1 and 255, and DocumentedHeadersSetBoundary. -/
theorem witness_headers :
    (headerState 0x00).dec.skipk = .pending ∧ (headerState 0x00).dec.nb = 8 ∧ frameRead (headerState 0x00) 0 = 0x00 ∧
    tableRead Config.standard 0x00 = 0 ∧ tableRead Config.standard 0x01 = 1 ∧
    tableRead { Config.standard with clt := [(0x22, 255)] } 0x22 = 255 ∧
    after (exec (.headerDynamic 0x00) (headerState 0x00)) (fun t => t.dec.skipk == .unresolved) = true ∧
    after (exec (.headerKnown 0x22) { headerState 0x22 with cfg := { Config.standard with clt := [(0x22, 255)] } })
      (fun t => t.dec.skipidx == 2040) = true ∧
    after (exec .header01 (headerState 0x01)) (fun t => t.dec.skipidx == 8) = true ∧
    after (exec .header09 (headerState 0x09)) (fun t => t.dec.skipidx == 24) = true := by decide

/-- CompletedByteIsEmitted: the first byte and the last that fits (NBYTE = 64). -/
theorem witness_completed_byte :
    after (exec (.sinkByte 0 0xA5) (decoding [] [] { Decoder.start with nb := 8, acc := 0xA5 }))
      (fun t => t.fb == [(0, 0xA5)]) = true ∧
    after (exec (.sinkByte 0 0xA5) (decoding [] [] { Decoder.start with nb := 512, len := 63, acc := 0xA5 }))
      (fun t => t.dec.len == 64) = true := by decide

/-- FrameStartByCaptureState: the three capture states. -/
theorem witness_frame_start :
    State.reset.chan? 0 = some Channel.reset ∧ Channel.reset.chstate = .armed ∧
    after (exec (.inFrameStartCapturing 0) { State.reset with channels := [{ Channel.reset with chstate := .capturing }] })
      (fun _ => true) = true ∧
    after (exec (.inFrameStartOverrun 0) (selecting 1)) (fun _ => true) = true := by decide

/-- CellWriteIsRead at the first and the last index; CaptureDutiesAreKept on a buffer the dispatcher owns, on an ARMED channel,
on the index after and before the one in order, at the buffer's end, and on a source that is stopped and breaks no other
duty. -/
theorem witness_cell_write :
    after (exec (.inCellWrite 0 0 0) (capturing 0)) (fun t => cellRead t 0 0 == 0) = true ∧
    after (exec (.inCellWrite 0 63 0xFFFF) (capturing 63)) (fun t => cellRead t 0 63 == 0xFFFF) = true ∧
    refusedAs (exec (.inCellWrite 0 1 0) (capturing 0)) .captureDuty = true ∧
    refusedAs (exec (.inCellWrite 0 62 0) (capturing 63)) .captureDuty = true ∧
    refusedAs (exec (.inCellWrite 0 64 0) (capturing 64)) .captureDuty = true ∧
    refusedAs (exec (.inCellWrite 0 0 0)
        { State.reset with channels := [{ Channel.reset with chstate := .capturing, stopped := true }] })
      .captureDuty = true ∧
    boundaryState.chan? 0 = some (taken (cellsAt8 0x1E04 0x0602)) ∧ (taken (cellsAt8 0x1E04 0x0602)).owner = .sw ∧
    State.reset.chan? 1 = some Channel.reset ∧ Channel.reset.chstate ≠ .capturing := by decide

/-- CaptureErrorSetsPendingUnlessSuppressed, CommandsReachTheCaptureSource: the highest channel exists. -/
theorem witness_channel : State.reset.chan? 1 = some Channel.reset ∧ State.reset.chan? 2 = none := by decide

/-- CommandsReachTheCaptureSource, CaptureDoneSetsPending: a capturing source re-armed writes at index 0 again, and a channel
COMPLETE whose source is stopped stays so under an instruction that is no finish, and not under the finish. -/
theorem witness_stopped :
    after (exec (.cmdResetAndRearm 0) (capturing 63))
      (fun t => after (exec (.inCellWrite 0 0 0x0206) t) (fun u => cellRead u 0 0 == 0x0206)) = true ∧
    after (exec (.inCaptureDone 0) (capturing 63)) (fun t => (t.chan? 0).any (·.chstate == .complete)) = true ∧
    after (exec .stepDecode boundaryState)
      (fun t => (t.chan? 0).any (fun ch => ch.stopped && ch.chstate == .complete)) = true ∧
    after (exec .stepFinish finishing) (fun t => (t.chan? 0).any (fun ch => !ch.stopped && ch.chstate == .armed)) = true := by
  decide

/-- The dispatch statements: `CC[0]` and `ERR[1]` pending in the snapshot, and an exhausted one. -/
theorem witness_select :
    (selecting 0b1001).bstate = .select ∧ (selecting 0b1001).work ≠ 0 ∧ (selecting 0).work = 0 ∧
    (selecting 0b1001).work.testBit (2 * 0) = true ∧ (selecting 0b1001).work.testBit (2 * 1 + 1) = true ∧
    (selecting 0b1001).chan? 1 = some Channel.reset ∧ 1 < (selecting 0b1001).cfg.nch ∧
    State.reset.bstate = .idle ∧ ({ State.reset with status := 1 } : State).status ≠ 0 := by decide

/-- EveryDispatchOrderIsAdmitted, OverrunCounterNeverFalls. -/
theorem witness_registers_fit : (selecting 0b1001).RegistersFit :=
  ⟨by decide, by decide, by decide, by decide, by decide, by decide, by decide, by decide⟩

/-- ErrorHandlerReportsOnce: the latch open, and the latch set. -/
theorem witness_error_handler :
    after (exec (.evtCaptureError 1) (selecting 0)) (fun t => t.sink == [.error 1]) = true ∧
    after (exec (.sinkError 1) (selecting 0)) (fun t => t.sink == [.error 1]) = true ∧
    after (exec (.evtCaptureError 0) { selecting 0 with channels := [{ Channel.reset with errsup := true }] })
      (fun t => t.sink == []) = true := by decide

/-- FinishReportsAndHandsBack, DecodeDoneMovesToFinish, CaptureCompleteEntry. -/
theorem witness_finish :
    finishing.bstate = .finish ∧ finishing.chan? finishing.dch = some (taken (buffer [0x0206])) ∧
    after (exec .stepFinish finishing) (fun t => t.bstate == .select) = true ∧
    after (exec (.evtCaptureComplete 0) (selecting 0)) (fun t => t.bstate == .decode) = true := by decide

/-- SuppressedErrorsStaySuppressed, CaptureBufferWrittenOnlyByItsOwner, OwnershipMovesWithItsCommand,
DispatcherTransitions, NoErrorRecordInsideFrame, SnapshotOnlyShrinks, ConfigurationIsStatic: an instruction that runs, on a
channel that exists before and after it, whose latch is set. -/
theorem witness_whole_machine :
    (suppressed.chan? 0).any (fun ch => ch.errsup && ch.owner == .hw) = true ∧
    after (exec (.stepSelect 0) suppressed) (fun t => (t.chan? 0).any (fun ch => ch.errsup && ch.owner == .sw)) = true ∧
    after (exec .stepFinish finishing) (fun t => (t.chan? 0).any (fun ch => ch.owner == .hw)) = true := by decide

/-- EveryStopIsNamed: each fault and refusal is answered by some instruction, for a channel that does not exist, a duty broken
and a condition not met. -/
theorem witness_stops :
    exec (.inCaptureError 2) State.reset = .fault (.noSuchChannel 2) ∧
    exec (.inCellWrite 0 0 0) State.reset = .refused .captureDuty ∧
    exec .stepFinish State.reset = .refused .notSelected :=
  ⟨rfl, rfl, rfl⟩

/-- StepExecutesTheTurn: an input's turn, the block's turn in each dispatcher state, and the empty agenda. -/
theorem witness_turns :
    after (step { State.reset with agenda := [.packet .captureInput 0b000] }) (fun t => t.agenda == []) = true ∧
    after (step { State.reset with status := 1, agenda := [.pwd 0] }) (fun t => t.bstate == .select) = true ∧
    after (step { selecting 0b1001 with agenda := [.pwd 3] }) (fun t => t.sink == [.error 1]) = true ∧
    after (step { boundaryState with agenda := [.pwd 0] }) (fun t => t.dec.tataken) = true ∧
    after (step { finishing with agenda := [.pwd 0] }) (fun t => t.bstate == .select) = true ∧
    after (step boundaryState) (fun t => t.choices == 1) = true := by decide

/-- StepExecutesTheTurn on the empty agenda: a block with nothing pending, one with an event pending, an exhausted snapshot
(whatever bit is named), a decode that has stopped, a finish. -/
theorem witness_own_turns :
    after (step State.reset) (fun t => t.choices == 0) = true ∧
    after (step { State.reset with status := 1 }) (fun t => t.bstate == .select && t.choices == 1) = true ∧
    after (step (decoding [] [] { Decoder.start with stop := .sentinel })) (fun t => t.bstate == .finish) = true ∧
    after (step finishing) (fun t => t.bstate == .select) = true := by decide

/-- DispatcherTransitions: an invocation ends with its snapshot exhausted. -/
theorem witness_invocation_end :
    after (exec (.stepSelect 0) (selecting 0)) (fun t => t.bstate == .idle) = true ∧
    (selecting 0).work < 2 ^ (2 * (selecting 0).cfg.nch) := by decide

/-- ResetMeetsTheInvariant: the test configuration is allowed, and so is the smallest one. -/
theorem witness_configurations :
    Config.standard.wf = true ∧
    ({ p := 2, tw := 2, nch := 1, ncell := 1, nbyte := 1, gw := 1, ow := 1, clt := [] } : Config).wf = true := by decide

/-- SummaryReportsWrittenBytes, StepKeepsTheInvariant, StepKeepsStoresCanonical, BlockNeverStops, CaptureStateCycle: a state
in the middle of an invocation meets the invariant, and its step goes on. -/
theorem witness_invariant : finishing.Inv where
  agenda := by intro t ht; cases ht
  canonical := ⟨by decide, by decide⟩
  inRange := ⟨by decide, by decide⟩
  registers := ⟨by decide, by decide, by decide, by decide, by decide, by decide, by decide, by decide⟩
  dispatch :=
    { work := by simp [finishing, decoding, State.reset, State.resetWith]
      owner := both_channels rfl (by decide) (by decide)
      complete := both_channels rfl (by decide) (by decide)
      pending := both_channels rfl (by decide) (by decide)
      error := both_channels rfl (by decide) (by decide)
      stopped := both_channels rfl (by decide) (by decide) }
  captures :=
    { bound := by decide
      armed := by decide
      written := by
        intro ch hch j
        simp only [finishing, decoding, List.mem_cons, List.not_mem_nil, or_false] at hch
        rcases hch with rfl | rfl
        · cases j <;> rfl
        · rfl }
  reported := fun _ => ⟨[], by decide⟩
  decoder := ⟨by decide, by decide, by decide, by decide, by decide, by decide, by decide, by decide, by decide,
    by decide, by decide, by decide⟩
  widths := ⟨by decide, by decide, by decide, by decide, by decide⟩

theorem witness_invariant_steps : after (step finishing) (fun t => t.bstate == .select) = true := by decide

end Sys2Proof.Tests
end

section
/-!
The block's turns (R19, R226, R227, R231, R232, R281): what its state enables, what one step is on each kind of turn, and
that no instruction changes the configuration (R14).
-/

namespace Sys2Proof.Machine

variable {s t : State}

/-! ## The step the block's state enables -/

theorem enabledStep_idle (h : s.bstate = .idle) (b : Nat) :
    enabledStep s b = if s.status = 0 then none else some .stepDispatchEntry := by
  rw [enabledStep, h]

theorem enabledStep_select (h : s.bstate = .select) (b : Nat) :
    enabledStep s b = some (.stepSelect (b % (2 * s.cfg.nch))) := by
  rw [enabledStep, h]

theorem enabledStep_decode (h : s.bstate = .decode) (b : Nat) :
    enabledStep s b = if s.dec.stop = .none then some .stepDecode else some .stepDecodeDone := by
  rw [enabledStep, h]

theorem enabledStep_finish (h : s.bstate = .finish) (b : Nat) : enabledStep s b = some .stepFinish := by
  rw [enabledStep, h]

/-! ## One step, by the kind of turn -/

/-- A word's turn executes the instruction it decodes to. -/
theorem step_packet {fmt : Format} {w : Word} {rest : List Turn} {i : Instr} (ha : s.agenda = .packet fmt w :: rest)
    (hd : decode s.context fmt w = .ok i) : step s = exec i { s with agenda := rest } := by
  simp only [step, fetch, ha, hd]

/-- The block's turn executes its enabled step, or holds its state. -/
theorem step_pwd {b : Nat} {rest : List Turn} (ha : s.agenda = .pwd b :: rest) :
    step s = (enabledStep s b).elim (.next { s with agenda := rest }) (exec · { s with agenda := rest }) := by
  simp only [step, fetch, ha]
  cases enabledStep s b <;> rfl

/-- With no turn left the block executes its enabled step in the free order, or holds its state (R313, log entry 6). -/
theorem step_no_turn (ha : s.agenda = []) :
    step s = (enabledStep s (Config.freeChoice s.choices)).elim (.next s)
      (exec · { s with choices := s.choices + 1 }) := by
  simp only [step, fetch, ha]
  cases enabledStep s (Config.freeChoice s.choices) <;> rfl

/-- Settles O45: the step by the kind of turn, and on the block's own turn by the dispatcher state, which fixes the enabled
step. -/
theorem stepExecutesTheTurn : Obligations.StepExecutesTheTurn := by
  refine ⟨fun s fmt w rest i ha hd => step_packet ha hd, fun s b rest ha => ?_, fun s ha => ?_⟩
  · rw [step_pwd ha]
    split
    · next hb => rw [enabledStep_idle hb]; split <;> rfl
    · next hb => rw [enabledStep_select hb]; rfl
    · next hb => rw [enabledStep_decode hb]; split <;> rfl
    · next hb => rw [enabledStep_finish hb]; rfl
  · rw [step_no_turn ha]
    split
    · next hb => rw [enabledStep_idle hb]; split <;> rfl
    · next hb => exact ⟨Config.freeChoice s.choices, by rw [enabledStep_select hb]; rfl⟩
    · next hb => rw [enabledStep_decode hb]; split <;> rfl
    · next hb => rw [enabledStep_finish hb]; rfl

/-! ## The configuration -/

@[simp] theorem handleError_cfg (c : Nat) (errsup : Bool) (s : State) : (handleError c errsup s).cfg = s.cfg := by
  unfold handleError; split <;> rfl

/-- A select step keeps the configuration, whether it ends the invocation, reports an error or starts a frame. -/
theorem execStepSelect_cfg {b : Nat} (h : execStepSelect b s = .next t) : t.cfg = s.cfg := by
  obtain ⟨_, ⟨_, rfl⟩ | ⟨j, ch, _, _, rfl⟩⟩ := execStepSelect_next.1 h
  · simp
  · split <;> simp

/-- A decoder step keeps the configuration, whether it ends the frame or runs a data cell. -/
theorem execStepDecode_cfg (h : execStepDecode s = .next t) : t.cfg = s.cfg := by
  obtain ⟨_, ⟨_, rfl⟩ | ⟨_, _, rfl⟩⟩ := execStepDecode_next.1 h
  · simp
  · dsimp only; split <;> simp

/-- Settles O59: the next state of each row is an operation that keeps the configuration, reset's too. -/
theorem configurationIsStatic : Obligations.ConfigurationIsStatic := by
  intro i s t h
  cases i with
  | cellSentinel l => obtain ⟨_, rfl⟩ := (execCellSentinel_next l).1 h; simp
  | cellData0 l hi => obtain ⟨_, _, rfl⟩ := execCellData0_next.1 h; simp
  | cellData1 l hi => obtain ⟨_, _, rfl⟩ := execCellData1_next.1 h; simp
  | cellAnomalous l hi => obtain ⟨_, rfl⟩ := execCellAnomalous_next.1 h; simp
  | cellInwindow l hi => obtain ⟨_, rfl⟩ := execCellInwindow_next.1 h; rfl
  | cellTurnaround l hi => obtain ⟨_, _, rfl⟩ := (execCellTurnaround_next l).1 h; simp
  | headerKnown hb => obtain ⟨_, rfl⟩ := execHeaderKnown_next.1 h; simp
  | headerDynamic hb => obtain ⟨_, rfl⟩ := execHeaderDynamic_next.1 h; simp
  | header01 => obtain ⟨_, rfl⟩ := execHeader01_next.1 h; simp
  | header09 => obtain ⟨_, rfl⟩ := execHeader09_next.1 h; simp
  | evtCaptureComplete c => obtain ⟨_, _, _, rfl⟩ := execEvtCaptureComplete_next.1 h; simp
  | evtCaptureError c => obtain ⟨_, _, _, rfl⟩ := execEvtCaptureError_next.1 h; simp
  | cmdDisableCapture c => obtain ⟨_, rfl⟩ := execCmdDisableCapture_next.1 h; simp
  | cmdResetAndRearm c => obtain ⟨_, rfl⟩ := execCmdResetAndRearm_next.1 h; simp
  | sinkByte ch value => obtain ⟨_, rfl⟩ := execSinkByte_next.1 h; simp
  | sinkSummary r => obtain ⟨_, _, _, _, rfl⟩ := execSinkSummary_next.1 h; simp
  | sinkError ch => obtain ⟨_, _, _, _, rfl⟩ := execSinkError_next.1 h; simp
  | inFrameStart c => obtain ⟨_, _, _, rfl⟩ := execInFrameStart_next.1 h; simp
  | inFrameStartCapturing c => obtain ⟨_, _, _, rfl⟩ := execInFrameStartCapturing_next.1 h; rfl
  | inFrameStartOverrun c => obtain ⟨_, _, _, rfl⟩ := execInFrameStartOverrun_next.1 h; simp
  | inCellWrite c j v => obtain ⟨_, _, _, rfl⟩ := execInCellWrite_next.1 h; simp
  | inCaptureDone c => obtain ⟨_, _, _, rfl⟩ := execInCaptureDone_next.1 h; simp
  | inCaptureError c => obtain ⟨_, _, rfl⟩ := execInCaptureError_next.1 h; split <;> simp
  | stepDispatchEntry => obtain ⟨_, rfl⟩ := execStepDispatchEntry_next.1 h; simp
  | stepSelect b => exact execStepSelect_cfg h
  | stepDecode => exact execStepDecode_cfg h
  | stepDecodeDone => obtain ⟨_, rfl⟩ := execStepDecodeDone_next.1 h; rfl
  | stepFinish => obtain ⟨_, _, _, rfl⟩ := execStepFinish_next.1 h; simp
  | stepClockTick => obtain rfl := execStepClockTick_next.1 h; simp
  | stepReset => obtain rfl := execStepReset_next.1 h; simp

end Sys2Proof.Machine
end

section
/-!
What one instruction can do to the dispatcher and to the sink, said once (R41, R125, R226-R233), and the safety statements
that follow from it and from `exec_channel` for one channel: the suppression latch (R35), the capture state (R36), the
overrun counter (R39) and `BSTATE` (R41).
-/

namespace Sys2Proof.Machine

variable {s t : State}

/-! ## The dispatcher and the sink -/

/-- How an instruction other than reset takes `BSTATE` and the sink from `s` to `t`. -/
inductive DispatchEffect (s t : State) : Prop where
  /-- Neither changes. -/
  | quiet (hb : t.bstate = s.bstate) (hs : t.sink = s.sink)
  /-- One BYTE record, while a frame is decoded (R187). -/
  | byte (v : Byte) (hd : s.bstate = .decode) (hb : t.bstate = s.bstate) (hs : t.sink = s.sink ++ [.byte s.dch v])
  /-- One ERROR record of a channel whose errors are not suppressed, in a select step (R233). -/
  | error (c : Nat) (ch : Channel) (hc : s.chan? c = some ch) (hl : ch.errsup = false) (hd : s.bstate = .select)
      (hb : t.bstate = s.bstate) (hs : t.sink = s.sink ++ [.error c])
  /-- Dispatch entry (R226). -/
  | entry (hd : s.bstate = .idle) (hb : t.bstate = .select) (hw : t.work = s.status) (hs : t.sink = s.sink)
  /-- The snapshot is exhausted (R227). -/
  | exhausted (b : Nat) (hd : s.bstate = .select) (hp : pickBit s.work b (2 * s.cfg.nch) = none)
      (hb : t.bstate = .idle) (hs : t.sink = s.sink)
  /-- A frame starts (R229). -/
  | frame (hd : s.bstate = .select) (hb : t.bstate = .decode) (hs : t.sink = s.sink)
  /-- The frame has ended (R231). -/
  | decoded (hd : s.bstate = .decode) (hstop : s.dec.stop ≠ .none) (hb : t.bstate = .finish) (hs : t.sink = s.sink)
  /-- Its SUMMARY is emitted (R232). -/
  | finished (r : Summary) (hd : s.bstate = .finish) (hb : t.bstate = .select) (hs : t.sink = s.sink ++ [.summary r])

theorem cellSelected_running (h : cellSelected s = true) : running s = true ∧ s.dec.cur < s.cfg.ncell := by
  simpa [cellSelected] using h

/-- A data bit sends nothing to the sink, or the byte it completes (R187). -/
theorem consumeBit_sink (bit : Bool) (s : State) :
    (consumeBit bit s).sink = s.sink ∨ ∃ v, (consumeBit bit s).sink = s.sink ++ [.byte s.dch v] := by
  rcases consumeBit_cases bit s with ⟨_, e⟩ | ⟨_, _, e⟩ | ⟨_, _, e⟩ <;> rw [e]
  · exact .inl rfl
  · exact .inl rfl
  · exact .inr ⟨_, rfl⟩

/-- A data cell sends nothing to the sink, or the byte it completes. -/
theorem runCell_sink (l h : Nat) (bit : Bool) (s : State) :
    (runCell l h bit s).sink = s.sink ∨ ∃ v, (runCell l h bit s).sink = s.sink ++ [.byte s.dch v] := by
  unfold runCell
  dsimp only
  split
  · split
    · simpa using consumeBit_sink (bitOf _ _) (passTurnaround (noteAnomaly l h (resolveHeader s)))
    · simp
  · simpa using consumeBit_sink bit (noteAnomaly l h (resolveHeader s))

theorem DispatchEffect.of_runCell (hr : running s = true) (l h : Nat) (bit : Bool) :
    DispatchEffect s (runCell l h bit s) := by
  rcases runCell_sink l h bit s with e | ⟨v, e⟩
  · exact .quiet (by simp) e
  · exact .byte v ((running_iff s).1 hr).1 (by simp) e

/-- An error handler reports once, where the channel's errors are not suppressed; `u` is `s` but for pending bits. -/
theorem DispatchEffect.of_handleError {u : State} {c : Nat} {ch : Channel} (hd : s.bstate = .select)
    (hc : s.chan? c = some ch) (hb : u.bstate = s.bstate) (hs : u.sink = s.sink) :
    DispatchEffect s (handleError c ch.errsup u) := by
  cases he : ch.errsup with
  | true => exact .quiet hb hs
  | false => exact .error c ch hc he hd hb (by simp [handleError, hs])

/-- Every effect that an instruction other than reset can have on the dispatcher and on the sink. -/
theorem exec_dispatchEffect {i : Instr} (h : exec i s = .next t) (hr : i ≠ .stepReset) : DispatchEffect s t := by
  cases i with
  | cellSentinel l => obtain ⟨_, rfl⟩ := (execCellSentinel_next l).1 h; exact .quiet rfl rfl
  | cellData0 l hi =>
    obtain ⟨⟨hc, _⟩, _, rfl⟩ := execCellData0_next.1 h; exact .of_runCell (cellSelected_running hc).1 l hi false
  | cellData1 l hi =>
    obtain ⟨⟨hc, _⟩, _, rfl⟩ := execCellData1_next.1 h; exact .of_runCell (cellSelected_running hc).1 l hi true
  | cellAnomalous l hi => obtain ⟨_, rfl⟩ := execCellAnomalous_next.1 h; exact .quiet (by simp) (by simp)
  | cellInwindow l hi => obtain ⟨_, rfl⟩ := execCellInwindow_next.1 h; exact .quiet rfl rfl
  | cellTurnaround l hi => obtain ⟨_, _, rfl⟩ := (execCellTurnaround_next l).1 h; exact .quiet (by simp) (by simp)
  | headerKnown hb => obtain ⟨_, rfl⟩ := execHeaderKnown_next.1 h; exact .quiet rfl rfl
  | headerDynamic hb => obtain ⟨_, rfl⟩ := execHeaderDynamic_next.1 h; exact .quiet rfl rfl
  | header01 => obtain ⟨_, rfl⟩ := execHeader01_next.1 h; exact .quiet rfl rfl
  | header09 => obtain ⟨_, rfl⟩ := execHeader09_next.1 h; exact .quiet rfl rfl
  | evtCaptureComplete c => obtain ⟨hd, _, _, rfl⟩ := execEvtCaptureComplete_next.1 h; exact .frame hd rfl rfl
  | evtCaptureError c => obtain ⟨hd, ch, hc, rfl⟩ := execEvtCaptureError_next.1 h; exact .of_handleError hd hc rfl rfl
  | cmdDisableCapture c => obtain ⟨_, rfl⟩ := execCmdDisableCapture_next.1 h; exact .quiet rfl rfl
  | cmdResetAndRearm c => obtain ⟨_, rfl⟩ := execCmdResetAndRearm_next.1 h; exact .quiet rfl rfl
  | sinkByte ch v =>
    obtain ⟨hd, rfl⟩ := execSinkByte_next.1 h
    simp only [byteDue, Bool.and_eq_true, running_iff] at hd
    exact .byte _ hd.1.1.1.1.1 rfl rfl
  | sinkSummary r => obtain ⟨hd, _, _, _, rfl⟩ := execSinkSummary_next.1 h; exact .finished r hd rfl rfl
  | sinkError c => obtain ⟨hd, ch, hc, hl, rfl⟩ := execSinkError_next.1 h; exact .error c ch hc hl hd rfl rfl
  | inFrameStart c => obtain ⟨_, _, _, rfl⟩ := execInFrameStart_next.1 h; exact .quiet rfl rfl
  | inFrameStartCapturing c => obtain ⟨_, _, _, rfl⟩ := execInFrameStartCapturing_next.1 h; exact .quiet rfl rfl
  | inFrameStartOverrun c => obtain ⟨_, _, _, rfl⟩ := execInFrameStartOverrun_next.1 h; exact .quiet rfl rfl
  | inCellWrite c j v => obtain ⟨_, _, _, rfl⟩ := execInCellWrite_next.1 h; exact .quiet rfl rfl
  | inCaptureDone c => obtain ⟨_, _, _, rfl⟩ := execInCaptureDone_next.1 h; exact .quiet rfl rfl
  | inCaptureError c => obtain ⟨_, _, rfl⟩ := execInCaptureError_next.1 h; split <;> exact .quiet rfl rfl
  | stepDispatchEntry => obtain ⟨⟨hd, _⟩, rfl⟩ := execStepDispatchEntry_next.1 h; exact .entry hd rfl rfl rfl
  | stepSelect b =>
    obtain ⟨hd, ⟨hp, rfl⟩ | ⟨j, ch, _, hc, rfl⟩⟩ := execStepSelect_next.1 h
    · exact .exhausted b hd hp rfl rfl
    · split
      · exact .of_handleError hd hc rfl rfl
      · exact .frame hd rfl rfl
  | stepDecode =>
    obtain ⟨hd, ⟨_, rfl⟩ | ⟨_, _, rfl⟩⟩ := execStepDecode_next.1 h
    · exact .quiet rfl rfl
    · dsimp only
      split
      · exact .quiet rfl rfl
      · exact .of_runCell hd _ _ _
  | stepDecodeDone => obtain ⟨⟨hd, hs⟩, rfl⟩ := execStepDecodeDone_next.1 h; exact .decoded hd hs rfl rfl
  | stepFinish => obtain ⟨hd, _, _, rfl⟩ := execStepFinish_next.1 h; exact .finished _ hd rfl rfl
  | stepClockTick => obtain rfl := execStepClockTick_next.1 h; exact .quiet rfl rfl
  | stepReset => exact absurd rfl hr

/-- Settles O56: each effect on the dispatcher is one of the transitions, and a select step that picks no bit of a word
within its width has an empty snapshot. -/
theorem dispatcherTransitions : Obligations.DispatcherTransitions := by
  intro i s t h hr
  cases exec_dispatchEffect h hr with
  | quiet hb => exact .inl hb
  | byte _ _ hb => exact .inl hb
  | error _ _ _ _ _ hb => exact .inl hb
  | entry hd hb hw => exact .inr (.inl ⟨hd, hb, hw⟩)
  | exhausted b hd hp hb => exact .inr (.inr (.inl ⟨hd, hb, fun hw => eq_zero_of_pickBit_none hw hp⟩))
  | frame hd hb => exact .inr (.inr (.inr (.inl ⟨hd, hb⟩)))
  | decoded hd hstop hb => exact .inr (.inr (.inr (.inr (.inl ⟨hd, hb, hstop⟩))))
  | finished _ hd hb => exact .inr (.inr (.inr (.inr (.inr ⟨hd, hb⟩))))

/-! ## One channel -/

/-- How an instruction takes channel `c` from `ch` to its next value: the cases of `exec_channel`, named. -/
inductive ChannelEffect (i : Instr) (s t : State) (c : Nat) (ch : Channel) : Channel → Prop where
  | kept : ChannelEffect i s t c ch ch
  | ticked : ChannelEffect i s t c ch { ch with gap := (ch.gap + 1) % 2 ^ s.cfg.gw }
  | reset (hi : i = .stepReset) : ChannelEffect i s t c ch { Channel.reset with draw := ch.draw + 1 }
  | frameStarted (hi : i = .inFrameStart c) (ha : ch.chstate = .armed) :
      ChannelEffect i s t c ch { ch with chstate := .capturing }
  | overrun : ChannelEffect i s t c ch { ch with ovr := min (ch.ovr + 1) (2 ^ s.cfg.ow - 1) }
  | written (j : Nat) (v : Word) (hi : i = .inCellWrite c j v) (hs : ch.chstate = .capturing) (hj : j = ch.wpos)
      (hn : j < s.cfg.ncell) :
      ChannelEffect i s t c ch { ch with cb := ch.cb.write j { word := v, fresh := true }, wpos := j + 1 }
  | captured (hi : i = .inCaptureDone c) (hs : ch.chstate = .capturing) :
      ChannelEffect i s t c ch { ch with chstate := .complete }
  | suppressed : ChannelEffect i s t c ch { ch with errsup := true }
  | disabled (hi : i = .cmdDisableCapture c) : ChannelEffect i s t c ch { ch with stopped := true }
  | rearmed (hi : i = .cmdResetAndRearm c) : ChannelEffect i s t c ch (obeyCommand .resetAndRearm ch)
  | taken : ChannelEffect i s t c ch { ch with stopped := true, owner := .sw, gap := 0 }
  | handedBack (hf : s.bstate = .finish) (hd : s.dch = c) (hi : i = .stepFinish ∨ ∃ r, i = .sinkSummary r) :
      ChannelEffect i s t c ch { obeyCommand .resetAndRearm ch with owner := .hw, chstate := .armed }

theorem exec_channelEffect {i : Instr} {c : Nat} {ch ch' : Channel} (h : exec i s = .next t)
    (hc : s.chan? c = some ch) (hc' : t.chan? c = some ch') : ChannelEffect i s t c ch ch' := by
  rcases exec_channel h hc hc' with rfl | ⟨rfl, _⟩ | ⟨rfl, hi⟩ | ⟨rfl, hi, ha⟩ | ⟨rfl, _⟩ |
    ⟨j, v, rfl, hi, _, hs, _, hj, hn⟩ | ⟨rfl, hi, hs⟩ | rfl | ⟨rfl, hi⟩ | ⟨rfl, hi⟩ | ⟨rfl, _⟩ | ⟨rfl, _, hf, hd, hi⟩
  · exact .kept
  · exact .ticked
  · exact .reset hi
  · exact .frameStarted hi ha
  · exact .overrun
  · exact .written j v hi hs hj hn
  · exact .captured hi hs
  · exact .suppressed
  · exact .disabled hi
  · exact .rearmed hi
  · exact .taken
  · exact .handedBack hf hd hi

/-- Nothing but reset clears a set suppression latch (R35). -/
theorem exec_errsup {i : Instr} {c : Nat} {ch ch' : Channel} (h : exec i s = .next t) (hc : s.chan? c = some ch)
    (hc' : t.chan? c = some ch') (hr : i ≠ .stepReset) (he : ch.errsup = true) : ch'.errsup = true := by
  cases exec_channelEffect h hc hc' with
  | reset hi => exact absurd hi hr
  | suppressed => rfl
  | _ => exact he

/-- Settles O51: no update of a channel but reset clears the latch, and an ERROR record is of a channel whose latch is
open. -/
theorem suppressedErrorsStaySuppressed : Obligations.SuppressedErrorsStaySuppressed := by
  intro i s t c ch hc he hr h
  obtain ⟨ch', hc'⟩ := exec_chan_exists h hc
  refine ⟨⟨ch', hc', exec_errsup h hc hc' hr he⟩, ?_⟩
  cases exec_dispatchEffect h hr with
  | error d dh hd hl _ _ hs =>
    have hne : d ≠ c := by rintro rfl; cases hc.symm.trans hd; simp [he] at hl
    simp [hs, hne]
  | quiet _ hs => rw [hs]
  | byte _ _ _ hs => simp [hs]
  | entry _ _ _ hs => rw [hs]
  | exhausted _ _ _ _ hs => rw [hs]
  | frame _ _ hs => rw [hs]
  | decoded _ _ _ hs => rw [hs]
  | finished _ _ _ hs => simp [hs]

/-- Settles O54: three updates of a channel move its capture state, and the finish step's is of the channel whose buffer the
dispatcher owns, which is COMPLETE (R57(g), (h)). -/
theorem captureStateCycle : Obligations.CaptureStateCycle := by
  intro i s t c ch ch' hinv hc hc' h hr
  cases exec_channelEffect h hc hc' with
  | reset hi => exact absurd hi hr
  | frameStarted hi ha => exact .inr (.inl ⟨ha, rfl, hi⟩)
  | captured hi hs => exact .inr (.inr (.inl ⟨hs, rfl, hi⟩))
  | handedBack hf hd hi =>
    have hsw : ch.owner = .sw := (hinv.dispatch.owner c ch hc).2 ⟨.inr hf, hd⟩
    exact .inr (.inr (.inr ⟨hinv.dispatch.complete c ch hc hsw, rfl, hf, hd, hi⟩))
  | _ => exact .inl rfl

/-- Settles O55: an update of a channel leaves the counter or saturates its increment, which a counter within its width
never exceeds. -/
theorem overrunCounterNeverFalls : Obligations.OverrunCounterNeverFalls := by
  intro i s t c ch ch' hfit hc hc' h hr
  have hlt : ch.ovr < 2 ^ s.cfg.ow := hfit.ovr ch (chan?_mem hc)
  cases exec_channelEffect h hc hc' with
  | reset hi => exact absurd hi hr
  | overrun => exact Nat.le_min.2 ⟨Nat.le_succ _, Nat.le_sub_one_of_lt hlt⟩
  | _ => exact le_rfl

end Sys2Proof.Machine
end

section
/-!
What the invariant says of one channel's store and counters alone, kept by every instruction whose cell word fits its width
(R70-R75, R38, R39, R223, R237).
-/

namespace Sys2Proof.Machine

variable {s t : State} {cfg : Config} {ch : Channel}

/-- The invariant's clauses on one channel that no other part of the state enters. -/
structure ChannelOk (cfg : Config) (ch : Channel) : Prop where
  canonical : Memory.wf ch.cb
  inRange : ∀ e ∈ ch.cb, e.1 < cfg.ncell ∧ e.2.word < 2 ^ (2 * cfg.tw)
  gap : ch.gap < 2 ^ cfg.gw
  ovr : ch.ovr < 2 ^ cfg.ow
  bound : ch.wpos ≤ cfg.ncell
  armed : ch.chstate = .armed → ch.wpos = 0
  written : ∀ j, (ch.cb.read j).any (·.fresh) = decide (j < ch.wpos)

theorem State.Inv.channelOk (h : s.Inv) (hm : ch ∈ s.channels) : ChannelOk s.cfg ch where
  canonical := h.canonical.cb ch hm
  inRange := h.inRange.cb ch hm
  gap := h.registers.gap ch hm
  ovr := h.registers.ovr ch hm
  bound := h.captures.bound ch hm
  armed := h.captures.armed ch hm
  written := h.captures.written ch hm

/-- A channel after reset, however often its buffer became unspecified (R301). -/
theorem channelOk_reset (cfg : Config) (n : Nat) : ChannelOk cfg { Channel.reset with draw := n } where
  canonical := Memory.wf_nil
  inRange := by intro e he; cases he
  gap := Nat.two_pow_pos _
  ovr := Nat.two_pow_pos _
  bound := Nat.zero_le _
  armed := fun _ => rfl
  written := fun _ => rfl

/-- Re-arming leaves the words, all of an earlier capture now, and the write position at index 0 (R237). -/
theorem ChannelOk.rearm (h : ChannelOk cfg ch) : ChannelOk cfg (obeyCommand .resetAndRearm ch) where
  canonical := Memory.wf_map h.canonical _
  inRange := by
    intro e he
    obtain ⟨d, hd, rfl⟩ := List.mem_map.1 he
    exact h.inRange d hd
  gap := h.gap
  ovr := h.ovr
  bound := Nat.zero_le _
  armed := fun _ => rfl
  written := by intro j; simp [obeyCommand, read_stale, Option.any_map]

/-- The next cell in order fills the buffer one further (R223). -/
theorem ChannelOk.write {v : Word} (h : ChannelOk cfg ch) (hs : ch.chstate = .capturing) (hn : ch.wpos < cfg.ncell)
    (hv : v < 2 ^ (2 * cfg.tw)) :
    ChannelOk cfg { ch with cb := ch.cb.write ch.wpos { word := v, fresh := true }, wpos := ch.wpos + 1 } where
  canonical := Memory.wf_write h.canonical _ _
  inRange := by
    intro e he
    rcases Memory.mem_write he with rfl | he
    · exact ⟨hn, hv⟩
    · exact h.inRange e he
  gap := h.gap
  ovr := h.ovr
  bound := hn
  armed := fun ha => by simp [hs] at ha
  written := by
    intro j
    rw [Memory.read_write]
    split
    · next hj => simp [hj]
    · next hj => rw [h.written j, decide_eq_decide]; show j < ch.wpos ↔ j < ch.wpos + 1; omega

theorem exec_channelOk {i : Instr} {c : Nat} {ch' : Channel} (h : exec i s = .next t) (hc : s.chan? c = some ch)
    (hc' : t.chan? c = some ch') (hv : ∀ d j v, i = .inCellWrite d j v → v < 2 ^ (2 * s.cfg.tw))
    (hk : ChannelOk s.cfg ch) : ChannelOk s.cfg ch' := by
  cases exec_channelEffect h hc hc' with
  | kept => exact hk
  | ticked => exact { hk with gap := Nat.mod_lt _ (Nat.two_pow_pos _) }
  | reset => exact channelOk_reset _ _
  | frameStarted => exact { hk with armed := nofun }
  | overrun =>
    have : 0 < 2 ^ s.cfg.ow := Nat.two_pow_pos _
    exact { hk with ovr := by show min _ _ < _; omega }
  | written j v hi hs hj hn => subst hj; exact hk.write hs hn (hv c _ v hi)
  | captured => exact { hk with armed := nofun }
  | suppressed => exact { hk with }
  | disabled => exact { hk with }
  | rearmed => exact hk.rearm
  | taken => exact { hk with gap := Nat.two_pow_pos _ }
  | handedBack => exact { hk.rearm with armed := fun _ => rfl }

/-- Every channel after an instruction was a channel before it. -/
theorem exec_channelsOk {i : Instr} (h : exec i s = .next t)
    (hv : ∀ d j v, i = .inCellWrite d j v → v < 2 ^ (2 * s.cfg.tw)) (hk : ∀ ch ∈ s.channels, ChannelOk s.cfg ch) :
    ∀ ch ∈ t.channels, ChannelOk t.cfg ch := by
  intro ch' hm
  obtain ⟨c, hc'⟩ := mem_chan? hm
  have hc : s.chan? c = some (s.channels[c]'(by rw [← exec_channels_length h]; exact chan?_lt hc')) :=
    List.getElem?_eq_getElem _
  rw [configurationIsStatic i s t h]
  exact exec_channelOk h hc hc' hv (hk _ (chan?_mem hc))

end Sys2Proof.Machine
end

section
/-!
The frame's part of the invariant: the frame buffer and the decoder registers (R53, R57(a)-(f), R191-R193), kept by every
sub-step of a decoder step, and the frame's BYTE records at the sink (R187, R241).
-/

namespace Sys2Proof.Machine

variable {s t : State}

/-- The invariant's clauses on the frame buffer and the decoder registers. The widths of `CUR`, `NB` and `LEN` follow from
`DecoderOk` (`State.FrameOk.fits`). -/
structure State.FrameOk (s : State) : Prop where
  canonical : Memory.wf s.fb
  inRange : ∀ e ∈ s.fb, e.1 < s.cfg.nbyte
  decoder : s.DecoderOk
  skipidx : s.dec.skipidx < 2 ^ s.cfg.iw
  anomidx : s.dec.anomidx < 2 ^ s.cfg.iw

theorem State.Inv.frameOk (h : s.Inv) : s.FrameOk :=
  ⟨h.canonical.fb, h.inRange.fb, h.decoder, h.widths.skipidx, h.widths.anomidx⟩

theorem State.FrameOk.fits (h : s.FrameOk) : s.DecoderFits where
  cur := lt_of_le_of_lt h.decoder.cursor (ncell_lt _)
  skipidx := h.skipidx
  anomidx := h.anomidx
  nb := lt_of_le_of_lt h.decoder.capacity (lt_two_pow_bitlen _)
  len := by
    refine lt_of_le_of_lt ?_ (lt_two_pow_bitlen _)
    have := h.decoder.len
    have := h.decoder.capacity
    omega

theorem State.DecoderOk.congr (h : s.DecoderOk) {why : Stop} (hcfg : t.cfg = s.cfg) (hfb : t.fb = s.fb)
    (hdec : t.dec = { s.dec with stop := why }) : t.DecoderOk := by
  constructor <;> simp only [hcfg, hfb, hdec]
  exacts [h.count, h.len, h.capacity, h.acc, h.boundary, h.taken, h.noAnomaly, h.cursor, h.headerPending,
    h.headerPassed, h.ahead, h.written]

/-- It depends on the configuration, the frame buffer and the decoder registers, `STOP` excepted. -/
theorem State.FrameOk.congr (h : s.FrameOk) {why : Stop} (hcfg : t.cfg = s.cfg) (hfb : t.fb = s.fb)
    (hdec : t.dec = { s.dec with stop := why }) : t.FrameOk where
  canonical := hfb ▸ h.canonical
  inRange := by rw [hcfg, hfb]; exact h.inRange
  decoder := h.decoder.congr hcfg hfb hdec
  skipidx := by rw [hcfg, hdec]; exact h.skipidx
  anomidx := by rw [hcfg, hdec]; exact h.anomidx

theorem State.FrameOk.endFrame (h : s.FrameOk) (why : Stop) : (endFrame why s).FrameOk := h.congr rfl rfl rfl

/-- At the start of a frame (R171). -/
theorem frameOk_start (hdec : s.dec = Decoder.start) (hcan : Memory.wf s.fb) (hran : ∀ e ∈ s.fb, e.1 < s.cfg.nbyte) :
    s.FrameOk where
  canonical := hcan
  inRange := hran
  decoder := by constructor <;> simp [hdec, Decoder.start]
  skipidx := by rw [hdec]; exact Nat.two_pow_pos _
  anomidx := by rw [hdec]; exact Nat.two_pow_pos _

/-! ## S3, the header -/

/-- No header is due: the pending header's byte is not complete (R175). -/
def State.HeaderSettled (s : State) : Prop := s.dec.skipk = .pending → s.dec.nb ≠ 8

/-- S3 does nothing, or resolves a due header by its table entry (R175-R177). -/
theorem resolveHeader_cases (s : State) :
    (s.HeaderSettled ∧ resolveHeader s = s) ∨
    (s.dec.skipk = .pending ∧ s.dec.nb = 8 ∧
      (resolveHeader s = leaveUnresolved s ∨ ∃ k, k ≠ 0 ∧ resolveHeader s = setBoundary (tableSkipIndex k) s)) := by
  by_cases hd : s.dec.skipk = .pending ∧ s.dec.nb = 8
  · refine .inr ⟨hd.1, hd.2, ?_⟩
    rw [resolveHeader, if_pos (by simp [headerDue, hd]), applyEntry]
    split
    · exact .inl rfl
    · next hk => exact .inr ⟨_, hk, rfl⟩
  · exact .inl ⟨fun hp hn => hd ⟨hp, hn⟩, if_neg (by simpa [headerDue] using hd)⟩

theorem resolveHeader_settled (s : State) : (resolveHeader s).HeaderSettled := by
  rcases resolveHeader_cases s with ⟨hs, e⟩ | ⟨_, _, e | ⟨k, _, e⟩⟩ <;> rw [e]
  · exact hs
  · exact nofun
  · exact nofun

/-- A turnaround may be set at or ahead of the cursor, past the header, where none was passed (R57(d), (e)). -/
theorem State.FrameOk.setBoundary {j : Nat} (h : s.FrameOk) (hj : 8 ≤ j) (hw : j < 2 ^ s.cfg.iw)
    (ht : s.dec.tataken = false) (hcur : s.dec.cur ≤ j) : (setBoundary j s).FrameOk :=
  { h with
    skipidx := hw
    decoder :=
      { h.decoder with
        boundary := fun _ => hj
        taken := fun h' => by simp [ht] at h'
        headerPending := nofun
        headerPassed := nofun
        ahead := fun _ _ => hcur } }

theorem State.DecoderOk.not_taken (h : s.DecoderOk) (hk : s.dec.skipk ≠ .resolved) : s.dec.tataken = false :=
  Bool.eq_false_iff.2 fun ht => hk (h.taken ht).1

theorem State.FrameOk.resolveHeader (h : s.FrameOk) : (resolveHeader s).FrameOk := by
  rcases resolveHeader_cases s with ⟨_, e⟩ | ⟨hp, hn, e⟩
  · rwa [e]
  · have ht : s.dec.tataken = false := h.decoder.not_taken (by simp [hp])
    have hcur : s.dec.cur = 8 := by simpa [ht, hn] using h.decoder.count
    rcases e with e | ⟨k, hk, e⟩ <;> rw [e]
    · exact { h with
        decoder :=
          { h.decoder with
            boundary := nofun
            taken := fun h' => by simp [ht] at h'
            headerPending := nofun
            headerPassed := fun _ => hcur.ge
            ahead := nofun } }
    · have hk : 1 ≤ k.toNat := Nat.one_le_iff_ne_zero.2 fun h0 => hk (BitVec.eq_of_toNat_eq h0)
      have hj : 8 ≤ tableSkipIndex k := by simp only [tableSkipIndex]; omega
      exact h.setBoundary hj (tableSkipIndex_lt _ _) ht (hcur.trans_le hj)

/-! ## S4, the anomaly -/

theorem State.FrameOk.recordAnomaly (h : s.FrameOk) (hcur : s.dec.cur < s.cfg.ncell) : (recordAnomaly s).FrameOk := by
  have hw : s.dec.cur < 2 ^ s.cfg.iw := hcur.trans (ncell_lt _)
  have hm : State.FrameOk { s with dec := { s.dec with anomv := true, anomidx := s.dec.cur } } :=
    { h with anomidx := hw, decoder := { h.decoder with noAnomaly := nofun } }
  unfold Machine.recordAnomaly
  dsimp only
  split
  · next hk => exact hm.setBoundary (h.decoder.headerPassed hk) hw (h.decoder.not_taken (by simp [hk])) le_rfl
  · exact hm

theorem State.FrameOk.noteAnomaly (h : s.FrameOk) (hcur : s.dec.cur < s.cfg.ncell) (l hi : Nat) :
    (noteAnomaly l hi s).FrameOk := by
  unfold Machine.noteAnomaly
  split
  · exact h.recordAnomaly hcur
  · exact h

theorem noteAnomaly_settled (h : s.HeaderSettled) (l hi : Nat) : (noteAnomaly l hi s).HeaderSettled := by
  unfold State.HeaderSettled at *
  rw [noteAnomaly_dec]
  split
  · dsimp only
    split
    · exact nofun
    · exact h
  · exact h

/-! ## S5, the turnaround -/

theorem atTurnaround_iff (s : State) :
    atTurnaround s = true ↔ s.dec.skipk = .resolved ∧ s.dec.cur = s.dec.skipidx := by
  simp [atTurnaround]

/-- Past the turnaround the frame has ended, or the cursor is on a cell (R183, R184). -/
theorem passTurnaround_cursor (hs : (passTurnaround s).dec.stop = .none) :
    (passTurnaround s).dec.cur < (passTurnaround s).cfg.ncell := by
  unfold passTurnaround at *
  dsimp only at *
  split at hs
  · cases hs
  · next hc =>
    rw [if_neg hc] at *
    split <;> exact Nat.lt_of_not_le hc

theorem State.FrameOk.passTurnaround (h : s.FrameOk) (ha : atTurnaround s = true) (hcur : s.dec.cur < s.cfg.ncell) :
    (passTurnaround s).FrameOk := by
  obtain ⟨hk, hc⟩ := (atTurnaround_iff s).1 ha
  have ht : s.dec.tataken = false := Bool.eq_false_iff.2 fun ht => by have := (h.decoder.taken ht).2; omega
  have hm : State.FrameOk { s with dec := { s.dec with tataken := true, cur := s.dec.cur + 1 } } :=
    { h with
      decoder :=
        { h.decoder with
          count := by simpa [ht] using h.decoder.count
          taken := fun _ => ⟨hk, by simp [hc]⟩
          cursor := hcur
          headerPending := by simp [hk]
          headerPassed := by simp [hk]
          ahead := nofun } }
  refine hm.congr (passTurnaround_cfg s) (passTurnaround_fb s) (passTurnaround_dec s)

/-! ## S6 to S8, the bit -/

/-- The accumulator with one more bit (R57(c), R186). -/
theorem toNat_shiftIn_lt {acc : Byte} {n : Nat} (h : acc.toNat < 2 ^ n) (bit : Bool) :
    (shiftIn acc bit).toNat < 2 ^ (n + 1) := by
  have hb : bit.toNat ≤ 1 := Bool.toNat_le bit
  have hm : 2 * acc.toNat % 256 ≤ 2 * acc.toNat := Nat.mod_le _ _
  rw [toNat_shiftIn, Nat.pow_succ]
  omega

/-- The cursor moves past a cell that gave a bit: one that is not the turnaround, after the header is settled. -/
theorem State.DecoderOk.advance {acc : Byte} {n : Nat} (h : s.DecoderOk) (hs : s.HeaderSettled)
    (hcur : s.dec.cur < s.cfg.ncell) (ha : s.dec.tataken = true ∨ atTurnaround s = false)
    (hcap : s.dec.nb ≠ 8 * s.cfg.nbyte) (hcfg : t.cfg = s.cfg)
    (hdec : t.dec = { s.dec with acc := acc, nb := s.dec.nb + 1, len := n, cur := s.dec.cur + 1 })
    (hacc : acc.toNat < 2 ^ ((s.dec.nb + 1) % 8)) (hlen : n = (s.dec.nb + 1) / 8)
    (hw : ∀ j < n, (t.fb.read j).isSome = true) : t.DecoderOk := by
  have hcount : s.dec.cur + 1 = s.dec.nb + 1 + if s.dec.tataken then 1 else 0 := by rw [h.count]; omega
  have hpending : s.dec.skipk = .pending → s.dec.cur + 1 ≤ 8 := fun hp => by
    have hc : s.dec.cur = s.dec.nb := by simpa [h.not_taken (by simp [hp])] using h.count
    have h8 := h.headerPending hp
    have hn := hs hp
    omega
  have hahead : s.dec.skipk = .resolved → s.dec.tataken = false → s.dec.cur + 1 ≤ s.dec.skipidx := fun hk ht => by
    refine lt_of_le_of_ne (h.ahead hk ht) fun he => ?_
    simp [ht, atTurnaround, hk, he] at ha
  constructor <;> simp only [hcfg, hdec]
  exacts [hcount, hlen, lt_of_le_of_ne h.capacity hcap, hacc, h.boundary,
    fun ht => (h.taken ht).imp_right Nat.le_succ_of_le, h.noAnomaly, hcur, hpending,
    fun hk => Nat.le_succ_of_le (h.headerPassed hk), hahead, hw]

/-- S6 to S8 on such a cell (R185-R188). -/
theorem State.FrameOk.consumeBit (h : s.FrameOk) (hs : s.HeaderSettled) (hcur : s.dec.cur < s.cfg.ncell)
    (ha : s.dec.tataken = true ∨ atTurnaround s = false) (bit : Bool) : (consumeBit bit s).FrameOk := by
  have hlen := h.decoder.len
  have hcap := h.decoder.capacity
  rcases consumeBit_cases bit s with ⟨_, e⟩ | ⟨hn, hb, e⟩ | ⟨hn, hb, e⟩ <;> rw [e]
  · exact h.endFrame _
  · have hacc := toNat_shiftIn_lt h.decoder.acc bit
    rw [show s.dec.nb % 8 + 1 = (s.dec.nb + 1) % 8 by omega] at hacc
    exact { h with
      decoder := h.decoder.advance hs hcur ha hn rfl rfl hacc (by omega) h.decoder.written }
  · refine { h with
      canonical := Memory.wf_write h.canonical _ _
      inRange := fun e he => ?_
      decoder := h.decoder.advance hs hcur ha hn rfl rfl (Nat.two_pow_pos _) (by omega) fun j hj => ?_ }
    · rcases Memory.mem_write he with rfl | he
      · show s.dec.len < s.cfg.nbyte; omega
      · exact h.inRange e he
    · dsimp only
      rw [Memory.read_write]
      split
      · rfl
      · exact h.decoder.written j (by omega)

/-! ## The step on a data cell -/

@[simp] theorem resolveHeader_cur (s : State) : (resolveHeader s).dec.cur = s.dec.cur := by rw [resolveHeader_dec]

@[simp] theorem noteAnomaly_cur (l h : Nat) (s : State) : (noteAnomaly l h s).dec.cur = s.dec.cur := by
  rw [noteAnomaly_dec]; split <;> rfl

theorem State.FrameOk.runCell (h : s.FrameOk) (hcur : s.dec.cur < s.cfg.ncell) (l hi : Nat) (bit : Bool) :
    (runCell l hi bit s).FrameOk := by
  have hu := h.resolveHeader.noteAnomaly (by simpa using hcur) l hi
  have hs := noteAnomaly_settled (resolveHeader_settled s) l hi
  have hc := noteAnomaly_cur l hi (Machine.resolveHeader s)
  have hn := noteAnomaly_cfg l hi (Machine.resolveHeader s)
  rw [resolveHeader_cur] at hc
  rw [resolveHeader_cfg] at hn
  unfold Machine.runCell
  dsimp only
  generalize Machine.noteAnomaly l hi (Machine.resolveHeader s) = u at *
  rw [← hc, ← hn] at hcur
  split
  · next ha =>
    have hp := hu.passTurnaround ha hcur
    have ht : (Machine.passTurnaround u).dec.tataken = true := by rw [passTurnaround_dec]
    split
    · next hstop =>
      have hk := (hp.decoder.taken ht).1
      exact hp.consumeBit (fun h' => by simp [hk] at h') (passTurnaround_cursor hstop) (.inl ht) _
    · exact hp
  · next ha => exact hu.consumeBit hs hcur (.inr (Bool.eq_false_iff.2 ha)) bit

/-! ## The frame's BYTE records -/

/-- The sink's last records are the frame's BYTE records in order, whatever the dispatcher state. -/
def State.Reported (s : State) : Prop :=
  ∃ before, s.sink = before ++ (List.range s.dec.len).map (fun j => .byte s.dch (frameRead s j))

theorem State.Reported.congr (h : s.Reported) (hlen : t.dec.len = s.dec.len) (hdch : t.dch = s.dch)
    (hfb : t.fb = s.fb) (hdraw : t.fbDraw = s.fbDraw) (hsink : t.sink = s.sink) : t.Reported := by
  simpa only [State.Reported, frameRead, hlen, hdch, hfb, hdraw, hsink] using h

theorem reported_start (h : s.dec.len = 0) : s.Reported := ⟨s.sink, by simp [h]⟩

/-- A completed byte is written and reported at the end of the frame's records (R187). -/
theorem State.Reported.consumeBit (h : s.Reported) (bit : Bool) : (consumeBit bit s).Reported := by
  rcases consumeBit_cases bit s with ⟨_, e⟩ | ⟨_, _, e⟩ | ⟨_, _, e⟩ <;> rw [e]
  · exact h.congr rfl rfl rfl rfl rfl
  · exact h.congr rfl rfl rfl rfl rfl
  · obtain ⟨before, hb⟩ := h
    have hold : ∀ j ∈ List.range s.dec.len,
        Record.byte s.dch (((s.fb.write s.dec.len (shiftIn s.dec.acc bit)).read j).getD (Config.freeByte s.fbDraw j)) =
          .byte s.dch (frameRead s j) := by
      intro j hj
      rw [Memory.read_write_other _ _ _ _ (List.mem_range.1 hj).ne]
      rfl
    refine ⟨before, ?_⟩
    simp only [frameRead, List.range_succ, List.map_append, List.map_congr_left hold, hb, List.map_cons, List.map_nil,
      Memory.read_write_same, Option.getD_some, List.append_assoc]

@[simp] theorem resolveHeader_len (s : State) : (resolveHeader s).dec.len = s.dec.len := by rw [resolveHeader_dec]

@[simp] theorem noteAnomaly_len (l h : Nat) (s : State) : (noteAnomaly l h s).dec.len = s.dec.len := by
  rw [noteAnomaly_dec]; split <;> rfl

@[simp] theorem passTurnaround_len (s : State) : (passTurnaround s).dec.len = s.dec.len := by rw [passTurnaround_dec]

theorem State.Reported.passTurnaround (h : s.Reported) : (passTurnaround s).Reported :=
  h.congr (by simp) (by simp) (by simp) (by simp) (by simp)

theorem State.Reported.runCell (h : s.Reported) (l hi : Nat) (bit : Bool) : (runCell l hi bit s).Reported := by
  have hu : (noteAnomaly l hi (resolveHeader s)).Reported :=
    h.congr (by simp) (by simp) (by simp) (by simp) (by simp)
  unfold Machine.runCell
  dsimp only
  split
  · split
    · exact hu.passTurnaround.consumeBit _
    · exact hu.passTurnaround
  · exact hu.consumeBit bit

end Sys2Proof.Machine
end

section
/-!
The dispatcher's part of the invariant (R57(g)-(i), R228, R235) and the status registers' widths, kept by every whole step of
an agent, and the invariant as a whole: it holds after reset, and every step keeps it.
-/

namespace Sys2Proof.Machine

variable {s t : State}

/-! ## The dispatcher's invariant, channel by channel -/

/-- The dispatcher decodes or finishes channel `c`'s frame. -/
def State.Serves (s : State) (c : Nat) : Prop := (s.bstate = .decode ∨ s.bstate = .finish) ∧ s.dch = c

/-- The clauses of `DispatchOk` on channel `c`. -/
structure ChannelServed (s : State) (c : Nat) (ch : Channel) : Prop where
  owner : ch.owner = .sw ↔ s.Serves c
  complete : ch.owner = .sw → ch.chstate = .complete
  pending : ccPending s c = true → ch.chstate = .complete ∧ ch.owner = .hw
  error : errPending s c = true → ch.errsup = false
  stopped : ch.stopped = true ↔ ch.owner = .sw

theorem dispatchOk_iff :
    s.DispatchOk ↔ (∀ b, s.work.testBit b = true → s.status.testBit b = true) ∧
      ∀ c ch, s.chan? c = some ch → ChannelServed s c ch :=
  ⟨fun h => ⟨h.work, fun c ch hc =>
      ⟨h.owner c ch hc, h.complete c ch hc, h.pending c ch hc, h.error c ch hc, h.stopped c ch hc⟩⟩,
    fun ⟨hw, h⟩ => ⟨hw, fun c ch hc => (h c ch hc).owner, fun c ch hc => (h c ch hc).complete,
      fun c ch hc => (h c ch hc).pending, fun c ch hc => (h c ch hc).error, fun c ch hc => (h c ch hc).stopped⟩⟩

theorem State.DispatchOk.served (h : s.DispatchOk) {c : Nat} {ch : Channel} (hc : s.chan? c = some ch) :
    ChannelServed s c ch := (dispatchOk_iff.1 h).2 c ch hc

/-- From `s` to `t` the dispatcher leaves channel `c` alone: none of its events becomes pending, and its frame is served in `t`
exactly if it is in `s`. -/
structure LeavesChannel (s t : State) (c : Nat) : Prop where
  serves : t.Serves c ↔ s.Serves c
  pending : ccPending t c = true → ccPending s c = true
  error : errPending t c = true → errPending s c = true

theorem ChannelServed.leave {c : Nat} {ch : Channel} (h : ChannelServed s c ch) (hl : LeavesChannel s t c) :
    ChannelServed t c ch where
  owner := h.owner.trans hl.serves.symm
  complete := h.complete
  pending := fun hp => h.pending (hl.pending hp)
  error := fun he => h.error (hl.error he)
  stopped := h.stopped

/-- A step that updates channel `d` and leaves the others keeps the dispatcher's invariant, if it does for channel `d`. -/
theorem State.DispatchOk.update {d : Nat} {f : Channel → Channel} (h : s.DispatchOk)
    (hch : t.channels = s.channels.modify d f) (hw : ∀ b, t.work.testBit b = true → t.status.testBit b = true)
    (hother : ∀ c, d ≠ c → LeavesChannel s t c)
    (hself : ∀ ch, s.chan? d = some ch → ChannelServed s d ch → ChannelServed t d (f ch)) : t.DispatchOk := by
  refine dispatchOk_iff.2 ⟨hw, fun c ch' hc' => ?_⟩
  rw [show t.chan? c = (s.modifyChan d f).chan? c from chan?_of_channels hch c, chan?_modifyChan] at hc'
  split at hc'
  · next hd =>
    subst hd
    obtain ⟨ch, hc, rfl⟩ := Option.map_eq_some_iff.1 hc'
    exact hself ch hc (h.served hc)
  · next hd => exact (h.served hc').leave (hother c hd)

/-- A step that updates no channel. -/
theorem State.DispatchOk.leave (h : s.DispatchOk) (hch : t.channels = s.channels)
    (hw : ∀ b, t.work.testBit b = true → t.status.testBit b = true) (hl : ∀ c, LeavesChannel s t c) : t.DispatchOk :=
  dispatchOk_iff.2 ⟨hw, fun c _ hc => (h.served (chan?_of_channels hch c ▸ hc)).leave (hl c)⟩

theorem leavesChannel_of_eq {c : Nat} (hb : t.bstate = s.bstate) (hd : t.dch = s.dch) (hs : t.status = s.status) :
    LeavesChannel s t c := by
  constructor <;> simp only [State.Serves, ccPending, errPending, hb, hd, hs, imp_self]

/-! ## The whole steps of the agents -/

/-- What a whole step of an agent other than reset does (R19), from a state that meets the dispatcher's invariant. -/
inductive Move (s : State) : State → Prop where
  /-- A frame start while capturing, or a suppressed error (R222, R225). -/
  | hold : Move s s
  | frameStart (c : Nat) (ch : Channel) (hc : s.chan? c = some ch) (ha : ch.chstate = .armed) :
      Move s (s.modifyChan c (fun ch => { ch with chstate := .capturing }))
  | overrun (c : Nat) : Move s (countOverrun c s)
  | cellWrite (c i : Nat) (v : Word) : Move s (cellWrite c i v s)
  | captureDone (c : Nat) (ch : Channel) (hc : s.chan? c = some ch) (hs : ch.chstate = .capturing) :
      Move s (setPending (ccBit c) (s.modifyChan c (fun ch => { ch with chstate := .complete })))
  | captureError (c : Nat) (ch : Channel) (hc : s.chan? c = some ch) (hl : ch.errsup = false) :
      Move s (setPending (errBit c) s)
  | entry (hd : s.bstate = .idle) : Move s (takeDispatch s)
  | exhausted (hd : s.bstate = .select) : Move s (endDispatch s)
  | reportError (c : Nat) (hd : s.bstate = .select) : Move s (latchError c (clearPending (errBit c) s))
  | startFrame (c : Nat) (ch : Channel) (hd : s.bstate = .select) (hc : s.chan? c = some ch)
      (hp : ccPending s c = true) : Move s (completeEntry c ch.gap (clearPending (ccBit c) s))
  | endFrame (why : Stop) : Move s (endFrame why s)
  | runCell (l h : Nat) (bit : Bool) (hcur : s.dec.cur < s.cfg.ncell) : Move s (runCell l h bit s)
  | decodeDone (hd : s.bstate = .decode) : Move s { s with bstate := .finish }
  | finish (r : Summary) (hd : s.bstate = .finish) : Move s (finishFrame r s)
  | tick : Move s (tickGaps s)

/-- A picked bit names a pending event of a channel: an error, whose latch is then open, or a completed capture. -/
theorem move_of_select {b j : Nat} {ch : Channel} (h : s.DispatchOk) (hd : s.bstate = .select)
    (hp : pickBit s.work b (2 * s.cfg.nch) = some j) (hc : s.chan? (bitChannel j) = some ch) :
    Move s (if bitIsError j then handleError (bitChannel j) ch.errsup (clearPending j s)
      else completeEntry (bitChannel j) ch.gap (clearPending j s)) := by
  have hs := h.work j (pickBit_some hp).1
  have hj := bit_eq j
  split
  · next he =>
    rw [if_pos he] at hj
    generalize bitChannel j = c at *
    subst hj
    rw [h.error c ch hc hs]
    exact .reportError c hd
  · next he =>
    rw [if_neg he] at hj
    generalize bitChannel j = c at *
    subst hj
    exact .startFrame c ch hd hc hs

theorem exec_move {i : Instr} (h : exec i s = .next t) (hm : i.format.isMove = true) (hr : i ≠ .stepReset)
    (hok : s.DispatchOk) : Move s t := by
  cases i with
  | inFrameStart c => obtain ⟨ch, hc, ha, rfl⟩ := execInFrameStart_next.1 h; exact .frameStart c ch hc ha
  | inFrameStartCapturing c => obtain ⟨_, _, _, rfl⟩ := execInFrameStartCapturing_next.1 h; exact .hold
  | inFrameStartOverrun c => obtain ⟨_, _, _, rfl⟩ := execInFrameStartOverrun_next.1 h; exact .overrun c
  | inCellWrite c j v => obtain ⟨_, _, _, rfl⟩ := execInCellWrite_next.1 h; exact .cellWrite c j v
  | inCaptureDone c => obtain ⟨ch, hc, hs, rfl⟩ := execInCaptureDone_next.1 h; exact .captureDone c ch hc hs
  | inCaptureError c =>
    obtain ⟨ch, hc, rfl⟩ := execInCaptureError_next.1 h
    split
    · exact .hold
    · next hl => exact .captureError c ch hc (Bool.eq_false_iff.2 hl)
  | stepDispatchEntry => obtain ⟨⟨hd, _⟩, rfl⟩ := execStepDispatchEntry_next.1 h; exact .entry hd
  | stepSelect b =>
    obtain ⟨hd, ⟨_, rfl⟩ | ⟨j, ch, hp, hc, rfl⟩⟩ := execStepSelect_next.1 h
    · exact .exhausted hd
    · exact move_of_select hok hd hp hc
  | stepDecode =>
    obtain ⟨_, ⟨_, rfl⟩ | ⟨hcur, _, rfl⟩⟩ := execStepDecode_next.1 h
    · exact .endFrame _
    · dsimp only
      split
      · exact .endFrame _
      · exact .runCell _ _ _ hcur
  | stepDecodeDone => obtain ⟨⟨hd, _⟩, rfl⟩ := execStepDecodeDone_next.1 h; exact .decodeDone hd
  | stepFinish => obtain ⟨hd, _, _, rfl⟩ := execStepFinish_next.1 h; exact .finish _ hd
  | stepClockTick => obtain rfl := execStepClockTick_next.1 h; exact .tick
  | stepReset => exact absurd rfl hr
  | _ => exact absurd hm Bool.false_ne_true

theorem Move.agenda (m : Move s t) : t.agenda = s.agenda := by
  cases m <;> simp

/-! ## What a whole step keeps -/

theorem testBit_of_clearBit {w b j : Nat} (h : (clearBit w b).testBit j = true) : w.testBit j = true := by
  rw [testBit_clearBit, Bool.and_eq_true] at h
  exact h.1

/-- A bit that is pending once bit `j` is cleared in the snapshot is still pending in the status word (R227). -/
theorem testBit_clearBit_mono {w v : Nat} (h : ∀ b, w.testBit b = true → v.testBit b = true) (j b : Nat)
    (hb : (clearBit w j).testBit b = true) : (clearBit v j).testBit b = true := by
  rw [testBit_clearBit, Bool.and_eq_true] at hb ⊢
  exact ⟨h b hb.1, hb.2⟩

theorem Move.dispatchOk (m : Move s t) (h : s.DispatchOk) : t.DispatchOk := by
  cases m with
  | hold => exact h
  | frameStart c ch hc ha =>
    refine h.update rfl h.work (fun d _ => leavesChannel_of_eq rfl rfl rfl) fun ch' hc' k => ?_
    cases hc.symm.trans hc'
    exact { k with
      complete := fun ho => by simpa [ha] using k.complete ho
      pending := fun hp => by simpa [ha] using (k.pending hp).1 }
  | overrun c =>
    exact h.update rfl h.work (fun d _ => leavesChannel_of_eq rfl rfl rfl) fun _ _ k => { k with }
  | cellWrite c i v =>
    exact h.update rfl h.work (fun d _ => leavesChannel_of_eq rfl rfl rfl) fun _ _ k => { k with }
  | captureDone c ch hc hs =>
    refine h.update rfl (fun b hb => by simp [h.work b hb])
      (fun d hd => ⟨.rfl, by simp [ccPending, hd], by simp [errPending, ccBit_ne_errBit]⟩) fun ch' hc' k => ?_
    cases hc.symm.trans hc'
    have hhw : ch.owner = .hw := by
      cases ho : ch.owner with
      | hw => rfl
      | sw => simpa [hs] using k.complete ho
    exact { k with
      complete := fun _ => rfl
      pending := fun _ => ⟨rfl, hhw⟩
      error := fun he => k.error (by simpa [errPending, ccBit_ne_errBit] using he) }
  | captureError c ch hc hl =>
    have hcc : ∀ d, ccPending (setPending (errBit c) s) d = ccPending s d := fun d => by
      simp [ccPending, (ccBit_ne_errBit d c).symm]
    refine h.update (d := c) (f := id) (List.modify_id _ _).symm (fun b hb => by simp [h.work b hb])
      (fun d hd => ⟨.rfl, by simp [hcc], by simp [errPending, hd]⟩) fun ch' hc' k => ?_
    cases hc.symm.trans hc'
    exact { k with
      pending := fun hp => k.pending (hcc c ▸ hp)
      error := fun _ => hl }
  | entry hd => exact h.leave rfl (fun _ hb => hb) fun _ => ⟨by simp [State.Serves, hd], id, id⟩
  | exhausted hd => exact h.leave rfl h.work fun _ => ⟨by simp [State.Serves, hd], id, id⟩
  | reportError c hd =>
    exact h.update rfl (testBit_clearBit_mono h.work _) (fun _ _ => ⟨.rfl, testBit_of_clearBit, testBit_of_clearBit⟩)
      fun ch hc k => { k with
        pending := fun hp => k.pending (testBit_of_clearBit hp)
        error := fun he => by simp [errPending] at he }
  | startFrame c ch hd hc hp =>
    refine h.update (List.modify_modify_eq _ _ _ _) (testBit_clearBit_mono h.work _)
      (fun d hne => ⟨by simp [State.Serves, hd, hne], testBit_of_clearBit, testBit_of_clearBit⟩) fun ch' hc' k => ?_
    exact {
      owner := by simp [State.Serves]
      complete := fun _ => (k.pending hp).1
      pending := fun hp' => by simp [ccPending] at hp'
      error := fun he => k.error (testBit_of_clearBit he)
      stopped := by simp [obeyCommand] }
  | endFrame why => exact h.leave rfl h.work fun _ => leavesChannel_of_eq rfl rfl rfl
  | runCell l hi bit hcur =>
    exact h.leave (by simp) (by simpa using h.work) fun _ => leavesChannel_of_eq (by simp) (by simp) (by simp)
  | decodeDone hd => exact h.leave rfl h.work fun _ => ⟨by simp [State.Serves, hd], id, id⟩
  | finish r hd =>
    refine h.update (d := s.dch) (List.modify_modify_eq _ _ _ _) h.work (fun d hne => ⟨?_, id, id⟩) fun ch hc k => ?_
    · simp [State.Serves, hne]
    · have ho : ch.owner = .sw := k.owner.2 ⟨.inr hd, rfl⟩
      exact {
        owner := by simp [State.Serves]
        complete := nofun
        pending := fun hp => by simpa [ho] using (k.pending hp).2
        error := k.error
        stopped := by simp [obeyCommand] }
  | tick =>
    refine dispatchOk_iff.2 ⟨h.work, fun c ch' hc' => ?_⟩
    obtain ⟨ch, hc, rfl⟩ : ∃ ch, s.chan? c = some ch ∧ { ch with gap := (ch.gap + 1) % 2 ^ s.cfg.gw } = ch' := by
      simpa [State.chan?] using hc'
    exact { h.served hc with }

theorem Move.statusFits (m : Move s t) (h : s.RegistersFit) :
    t.status < 2 ^ (2 * s.cfg.nch) ∧ t.work < 2 ^ (2 * s.cfg.nch) ∧ t.dch < s.cfg.nch ∧ t.gaprec < 2 ^ s.cfg.gw := by
  have hlt : ∀ {c ch}, s.chan? c = some ch → c < s.cfg.nch := fun hc => h.channels ▸ chan?_lt hc
  cases m with
  | captureDone c ch hc =>
    exact ⟨setBit_lt h.status (by have := hlt hc; simp only [ccBit]; omega), h.work, h.dch, h.gaprec⟩
  | captureError c ch hc =>
    exact ⟨setBit_lt h.status (by have := hlt hc; simp only [errBit]; omega), h.work, h.dch, h.gaprec⟩
  | entry => exact ⟨h.status, h.status, h.dch, h.gaprec⟩
  | reportError => exact ⟨clearBit_lt h.status, clearBit_lt h.work, h.dch, h.gaprec⟩
  | startFrame c ch _ hc =>
    exact ⟨clearBit_lt h.status, clearBit_lt h.work, hlt hc, h.gap ch (chan?_mem hc)⟩
  | runCell => simpa using ⟨h.status, h.work, h.dch, h.gaprec⟩
  | _ => exact ⟨h.status, h.work, h.dch, h.gaprec⟩

theorem Move.frameOk (m : Move s t) (h : s.FrameOk) : t.FrameOk := by
  cases m with
  | startFrame => exact frameOk_start rfl h.canonical h.inRange
  | endFrame why => exact h.endFrame why
  | runCell l hi bit hcur => exact h.runCell hcur l hi bit
  | _ => exact h.congr (why := s.dec.stop) rfl rfl rfl

/-- A frame starts with no byte, a data cell appends the byte it completes, and no other step writes to the sink while the
frame lasts (R241). -/
theorem Move.bytesReported (m : Move s t) (h : s.BytesReported) : t.BytesReported := by
  have same : t.bstate = s.bstate → (s.Reported → t.Reported) → t.BytesReported := fun hb hs hf => hs (h (hb ▸ hf))
  cases m with
  | entry => exact nofun
  | exhausted => exact nofun
  | finish => exact nofun
  | reportError c hd => exact fun hf => by simp [hd] at hf
  | startFrame => exact fun _ => reported_start rfl
  | runCell l hi bit => exact same (by simp) fun hs => hs.runCell l hi bit
  | decodeDone hd => exact fun _ => State.Reported.congr (h (.inl hd)) rfl rfl rfl rfl rfl
  | _ => exact same rfl fun hs => hs.congr rfl rfl rfl rfl rfl

/-! ## The invariant -/

/-- The invariant from its parts: each channel, the frame, and what joins them. -/
theorem inv_of_parts (hagenda : s.AgendaMoves) (hch : ∀ ch ∈ s.channels, ChannelOk s.cfg ch) (hframe : s.FrameOk)
    (hregisters : s.RegistersFit) (hdispatch : s.DispatchOk) (hreported : s.BytesReported) : s.Inv where
  agenda := hagenda
  canonical := ⟨fun ch hm => (hch ch hm).canonical, hframe.canonical⟩
  inRange := ⟨fun ch hm => (hch ch hm).inRange, hframe.inRange⟩
  registers := hregisters
  dispatch := hdispatch
  captures := ⟨fun ch hm => (hch ch hm).bound, fun ch hm => (hch ch hm).armed, fun ch hm => (hch ch hm).written⟩
  reported := hreported
  decoder := hframe.decoder
  widths := hframe.fits

/-- The registers and stores of reset meet the invariant, whatever the ports have been sent, how often the stores became
unspecified, and which whole steps are still to come (R300, R301). -/
theorem resetWith_inv {cfg : Config} {chs : List Channel} {u : State} (n : Nat) (hcfg : cfg.wf = true)
    (hlen : chs.length = cfg.nch) (hch : ∀ ch ∈ chs, ∃ k, ch = { Channel.reset with draw := k })
    (ha : u.AgendaMoves) :
    State.Inv { State.resetWith cfg with
      channels := chs, fbDraw := n, sink := u.sink, commands := u.commands, agenda := u.agenda
      choices := u.choices } := by
  have hok : ∀ ch ∈ chs, ChannelOk cfg ch := fun ch hm => by
    obtain ⟨k, rfl⟩ := hch ch hm
    exact channelOk_reset cfg k
  refine inv_of_parts ha hok (frameOk_start rfl Memory.wf_nil nofun) ?_ ?_ nofun
  · have h1 : 1 ≤ cfg.nch := by simp only [Config.wf, Bool.and_eq_true, decide_eq_true_eq] at hcfg; omega
    exact ⟨hcfg, hlen, Nat.two_pow_pos _, Nat.two_pow_pos _, h1, Nat.two_pow_pos _,
      fun ch hm => (hok ch hm).gap, fun ch hm => (hok ch hm).ovr⟩
  · refine dispatchOk_iff.2 ⟨fun b hb => hb, fun c ch hc => ?_⟩
    obtain ⟨k, rfl⟩ := hch ch (chan?_mem hc)
    constructor <;> simp [State.resetWith, Channel.reset, State.Serves, ccPending, errPending]

/-- Settles O47: every channel of the reset state is a channel after reset, and its agenda is empty. -/
theorem resetMeetsTheInvariant : Obligations.ResetMeetsTheInvariant := fun cfg hcfg =>
  resetWith_inv (u := State.resetWith cfg) 0 hcfg List.length_replicate
    (fun _ hm => ⟨0, List.eq_of_mem_replicate hm⟩) nofun

theorem resetAll_inv (h : s.Inv) : (resetAll s).Inv := by
  refine resetWith_inv (u := s) _ h.registers.cfg (by simpa using h.registers.channels) (fun ch hm => ?_) h.agenda
  obtain ⟨ch', _, rfl⟩ := List.mem_map.1 hm
  exact ⟨_, rfl⟩

/-- A whole step of an agent, other than reset, keeps the invariant. -/
theorem Move.inv (m : Move s t) (h : s.Inv) (hcfg : t.cfg = s.cfg) (hlen : t.channels.length = s.channels.length)
    (hch : ∀ ch ∈ t.channels, ChannelOk t.cfg ch) : t.Inv := by
  obtain ⟨hstatus, hwork, hdch, hgaprec⟩ := m.statusFits h.registers
  rw [← hcfg] at hstatus hwork hdch hgaprec
  have hagenda : t.AgendaMoves := by rw [State.AgendaMoves, m.agenda]; exact h.agenda
  refine inv_of_parts hagenda hch (m.frameOk h.frameOk) ?_ (m.dispatchOk h.dispatch) (m.bytesReported h.reported)
  exact ⟨hcfg ▸ h.registers.cfg, by rw [hlen, hcfg]; exact h.registers.channels, hstatus, hwork, hdch, hgaprec,
    fun ch hm => (hch ch hm).gap, fun ch hm => (hch ch hm).ovr⟩

theorem exec_inv {i : Instr} (h : exec i s = .next t) (hm : i.format.isMove = true)
    (hv : ∀ c j v, i = .inCellWrite c j v → v < 2 ^ (2 * s.cfg.tw)) (hinv : s.Inv) : t.Inv := by
  by_cases hr : i = .stepReset
  · subst hr
    obtain rfl := execStepReset_next.1 h
    exact resetAll_inv hinv
  · exact (exec_move h hm hr hinv.dispatch).inv hinv (configurationIsStatic i s t h) (exec_channels_length h)
      (exec_channelsOk h hv fun _ hm => hinv.channelOk hm)

/-! ## The turn -/

/-- The invariant speaks of the agenda in one clause only, and of the count of free choices in none. -/
theorem State.Inv.turn {a : List Turn} (h : s.Inv) (n : Nat) (ha : ∀ x ∈ a, x.isMove = true) :
    State.Inv { s with agenda := a, choices := n } :=
  inv_of_parts ha (fun _ hm => h.channelOk hm) (h.frameOk.congr rfl rfl rfl) { h.registers with }
    { h.dispatch with } h.reported

theorem frameStartRow_ne_cellWrite (d : Nat) (st : ChState) (c j v : Nat) :
    frameStartRow d st ≠ .inCellWrite c j v := by
  cases st <;> exact nofun

/-- The cell word of a decoded cell write fits its width (R131). -/
theorem decode_cellWrite_lt {ctx : DecodeContext} {fmt : Format} {w c j v : Nat}
    (h : decode ctx fmt w = .ok (.inCellWrite c j v)) : v < 2 ^ (2 * ctx.cfg.tw) := by
  obtain rfl : Format.captureInput = fmt := Laws.DecodedFormat.inCellWrite c j v ctx fmt w h
  simp only [decode, decodeInput, unpackFields] at h
  split at h
  · cases h
  · split at h
    · cases h
    · split at h
      · split at h
        · cases h
        · split at h
          · cases h
          · cases h; exact Nat.mod_lt _ (Nat.two_pow_pos _)
      · split at h
        · cases h
        · split at h
          · exact absurd (Except.ok.inj h) (frameStartRow_ne_cellWrite _ _ _ _ _)
          · split at h <;> cases h

/-- A step on an agenda of whole steps takes one turn from it and holds the state, or executes a whole step of an agent whose
cell word, if it writes one, fits its width. -/
theorem step_turn (h : step s = .next t) (ha : s.AgendaMoves) :
    ∃ a n, (∀ x ∈ a, x.isMove = true) ∧
      (t = { s with agenda := a, choices := n } ∨
        ∃ i, exec i { s with agenda := a, choices := n } = .next t ∧ i.format.isMove = true ∧
          ∀ c j v, i = .inCellWrite c j v → v < 2 ^ (2 * s.cfg.tw)) := by
  have tail : ∀ {x rest}, s.agenda = x :: rest → ∀ y ∈ rest, y.isMove = true := fun he y hy =>
    ha y (he ▸ List.mem_cons_of_mem _ hy)
  rcases step_next h with ⟨i, u, hf, hx⟩ | hf
  · rcases fetch_run hf with ⟨b, hb, hu⟩ | ⟨fmt, w, rest, he, hd, rfl⟩
    · have hi := enabledStep_format hb
      have hw : ∀ c j v, i = .inCellWrite c j v → v < 2 ^ (2 * s.cfg.tw) := by rintro c j v rfl; cases hi
      rcases hu with ⟨_, rfl⟩ | ⟨k, rest, he, rfl⟩
      · exact ⟨s.agenda, _, ha, .inr ⟨i, hx, by rw [hi]; rfl, hw⟩⟩
      · exact ⟨rest, _, tail he, .inr ⟨i, hx, by rw [hi]; rfl, hw⟩⟩
    · have hm : fmt.isMove = true := ha (.packet fmt w) (he ▸ List.mem_cons_self)
      refine ⟨rest, _, tail he, .inr ⟨i, hx, ?_, ?_⟩⟩
      · rwa [Laws.DecodedFormat.decode_format _ _ _ _ hd]
      · rintro c j v rfl; exact decode_cellWrite_lt hd
  · rcases (fetch_idle hf).2.2 with ⟨_, ht⟩ | ⟨k, rest, he, rfl⟩
    · exact ⟨s.agenda, s.choices, ha, .inl ht⟩
    · exact ⟨rest, _, tail he, .inl rfl⟩

/-- Settles O48: the turn leaves the invariant, and the whole step executed on it keeps it, reset's too. -/
theorem stepKeepsTheInvariant : Obligations.StepKeepsTheInvariant := by
  intro s t hinv h
  obtain ⟨a, n, ha, rfl | ⟨i, hx, hm, hv⟩⟩ := step_turn h hinv.agenda
  · exact hinv.turn n ha
  · exact exec_inv hx hm hv (hinv.turn n ha)

end Sys2Proof.Machine
end

section
/-!
The stores of R70: what a decoder step writes (R87, R199), what any instruction can do to the frame buffer, and that every
step keeps the capture buffers and the frame buffer in canonical form.
-/

namespace Sys2Proof.Machine

variable {s t u : State}

/-! ## What a decoder step writes -/

/-- All that a decoder step can write: the decoder registers, and together with them the byte at `LEN` and its BYTE record
(R199, R187). -/
inductive DecoderWrites (s : State) : State → Prop where
  | registers (d : Decoder) : DecoderWrites s { s with dec := d }
  | byte (d : Decoder) (v : Byte) :
      DecoderWrites s { s with dec := d, fb := s.fb.write s.dec.len v, sink := s.sink ++ [.byte s.dch v] }

/-- Decoder registers set first, `LEN` excepted, add nothing to what is written. -/
theorem DecoderWrites.after (hu : u = { s with dec := u.dec }) (hlen : u.dec.len = s.dec.len)
    (h : DecoderWrites u t) : DecoderWrites s t := by
  cases h with
  | registers d => rw [hu]; exact .registers d
  | byte d v => rw [hlen, hu]; exact .byte d v

theorem consumeBit_writes (bit : Bool) (s : State) : DecoderWrites s (consumeBit bit s) := by
  rcases consumeBit_cases bit s with ⟨_, e⟩ | ⟨_, _, e⟩ | ⟨_, _, e⟩ <;> rw [e]
  · exact .registers _
  · exact .registers _
  · exact .byte _ _

theorem passTurnaround_writes (s : State) : DecoderWrites s (passTurnaround s) := by
  rw [passTurnaround_eq]; exact .registers _

/-- S3 to S5 set decoder registers only, so S6 to S8 alone write a byte. -/
theorem runCell_writes (l h : Nat) (bit : Bool) (s : State) : DecoderWrites s (runCell l h bit s) := by
  have hu : noteAnomaly l h (resolveHeader s) = { s with dec := (noteAnomaly l h (resolveHeader s)).dec } := by
    rw [noteAnomaly_eq, resolveHeader_eq]
  refine .after hu (by simp) ?_
  unfold runCell
  dsimp only
  split
  · split
    · exact .after (passTurnaround_eq _) (passTurnaround_len _) (consumeBit_writes _ _)
    · exact passTurnaround_writes _
  · exact consumeBit_writes bit _

theorem execStepDecode_writes (h : execStepDecode s = .next t) : DecoderWrites s t := by
  obtain ⟨_, ⟨_, rfl⟩ | ⟨_, _, rfl⟩⟩ := execStepDecode_next.1 h
  · exact .registers _
  · dsimp only
    split
    · exact .registers _
    · exact runCell_writes _ _ _ s

theorem DecoderWrites.fb (h : DecoderWrites s t) : t.fb = s.fb ∨ ∃ v, t.fb = s.fb.write s.dec.len v := by
  cases h with
  | registers d => exact .inl rfl
  | byte d v => exact .inr ⟨v, rfl⟩

theorem DecoderWrites.frame (h : DecoderWrites s t) : DecoderFrame s t := by
  cases h with
  | registers d => exact ⟨rfl, fun _ _ => rfl, .inl ⟨rfl, rfl⟩⟩
  | byte d v =>
    exact ⟨rfl, fun j hj => Memory.read_write_other _ _ _ _ hj, .inr ⟨v, rfl, Memory.read_write_same _ _ _⟩⟩

/-! ## The frame buffer -/

@[simp] theorem handleError_fb (c : Nat) (errsup : Bool) (s : State) : (handleError c errsup s).fb = s.fb := by
  unfold handleError; split <;> rfl

/-- An instruction leaves the frame buffer, writes one byte at `LEN` (R72, R187), or is reset (R300). -/
theorem exec_fb {i : Instr} (h : exec i s = .next t) :
    t.fb = s.fb ∨ (∃ v, t.fb = s.fb.write s.dec.len v) ∨ (t.fb = [] ∧ i = .stepReset) := by
  have writes : DecoderWrites s t →
      t.fb = s.fb ∨ (∃ v, t.fb = s.fb.write s.dec.len v) ∨ (t.fb = [] ∧ i = .stepReset) :=
    fun hw => hw.fb.imp_right .inl
  cases i with
  | cellSentinel l => obtain ⟨_, rfl⟩ := (execCellSentinel_next l).1 h; exact .inl rfl
  | cellData0 l hi => obtain ⟨_, _, rfl⟩ := execCellData0_next.1 h; exact writes (runCell_writes l hi false s)
  | cellData1 l hi => obtain ⟨_, _, rfl⟩ := execCellData1_next.1 h; exact writes (runCell_writes l hi true s)
  | cellAnomalous l hi => obtain ⟨_, rfl⟩ := execCellAnomalous_next.1 h; exact .inl (recordAnomaly_fb s)
  | cellInwindow l hi => obtain ⟨_, rfl⟩ := execCellInwindow_next.1 h; exact .inl rfl
  | cellTurnaround l hi => obtain ⟨_, _, rfl⟩ := (execCellTurnaround_next l).1 h; exact .inl (passTurnaround_fb s)
  | headerKnown hb => obtain ⟨_, rfl⟩ := execHeaderKnown_next.1 h; exact .inl rfl
  | headerDynamic hb => obtain ⟨_, rfl⟩ := execHeaderDynamic_next.1 h; exact .inl rfl
  | header01 => obtain ⟨_, rfl⟩ := execHeader01_next.1 h; exact .inl rfl
  | header09 => obtain ⟨_, rfl⟩ := execHeader09_next.1 h; exact .inl rfl
  | evtCaptureComplete c => obtain ⟨_, _, _, rfl⟩ := execEvtCaptureComplete_next.1 h; exact .inl rfl
  | evtCaptureError c => obtain ⟨_, _, _, rfl⟩ := execEvtCaptureError_next.1 h; exact .inl (handleError_fb _ _ s)
  | cmdDisableCapture c => obtain ⟨_, rfl⟩ := execCmdDisableCapture_next.1 h; exact .inl rfl
  | cmdResetAndRearm c => obtain ⟨_, rfl⟩ := execCmdResetAndRearm_next.1 h; exact .inl rfl
  | sinkByte ch v => obtain ⟨_, rfl⟩ := execSinkByte_next.1 h; exact writes (.byte _ _)
  | sinkSummary r => obtain ⟨_, _, _, _, rfl⟩ := execSinkSummary_next.1 h; exact .inl rfl
  | sinkError c => obtain ⟨_, _, _, _, rfl⟩ := execSinkError_next.1 h; exact .inl rfl
  | inFrameStart c => obtain ⟨_, _, _, rfl⟩ := execInFrameStart_next.1 h; exact .inl rfl
  | inFrameStartCapturing c => obtain ⟨_, _, _, rfl⟩ := execInFrameStartCapturing_next.1 h; exact .inl rfl
  | inFrameStartOverrun c => obtain ⟨_, _, _, rfl⟩ := execInFrameStartOverrun_next.1 h; exact .inl rfl
  | inCellWrite c j v => obtain ⟨_, _, _, rfl⟩ := execInCellWrite_next.1 h; exact .inl rfl
  | inCaptureDone c => obtain ⟨_, _, _, rfl⟩ := execInCaptureDone_next.1 h; exact .inl rfl
  | inCaptureError c => obtain ⟨_, _, rfl⟩ := execInCaptureError_next.1 h; exact .inl (by split <;> rfl)
  | stepDispatchEntry => obtain ⟨_, rfl⟩ := execStepDispatchEntry_next.1 h; exact .inl rfl
  | stepSelect b =>
    obtain ⟨_, ⟨_, rfl⟩ | ⟨j, ch, _, _, rfl⟩⟩ := execStepSelect_next.1 h
    · exact .inl rfl
    · exact .inl (by split <;> simp)
  | stepDecode => exact writes (execStepDecode_writes h)
  | stepDecodeDone => obtain ⟨_, rfl⟩ := execStepDecodeDone_next.1 h; exact .inl rfl
  | stepFinish => obtain ⟨_, _, _, rfl⟩ := execStepFinish_next.1 h; exact .inl rfl
  | stepClockTick => obtain rfl := execStepClockTick_next.1 h; exact .inl rfl
  | stepReset => obtain rfl := execStepReset_next.1 h; exact .inr (.inr ⟨rfl, rfl⟩)

/-! ## The canonical form -/

/-- A buffer is left, cleared by reset, written at one index, or relabelled by a re-arm. -/
theorem ChannelEffect.canonical {i : Instr} {c : Nat} {ch ch' : Channel} (e : ChannelEffect i s t c ch ch')
    (h : Memory.wf ch.cb) : Memory.wf ch'.cb := by
  cases e with
  | reset => exact Memory.wf_nil
  | written => exact Memory.wf_write h _ _
  | rearmed => exact Memory.wf_map h _
  | handedBack => exact Memory.wf_map h _
  | _ => exact h

/-- A channel that exists after an instruction existed before it. -/
theorem exec_chan_before {i : Instr} {c : Nat} {ch' : Channel} (h : exec i s = .next t)
    (hc' : t.chan? c = some ch') : ∃ ch, s.chan? c = some ch :=
  ⟨_, List.getElem?_eq_getElem (by rw [← exec_channels_length h]; exact chan?_lt hc')⟩

theorem exec_storesCanonical {i : Instr} (h : exec i s = .next t) (hs : s.StoresCanonical) : t.StoresCanonical where
  cb := by
    intro ch' hm
    obtain ⟨c, hc'⟩ := mem_chan? hm
    obtain ⟨ch, hc⟩ := exec_chan_before h hc'
    exact (exec_channelEffect h hc hc').canonical (hs.cb ch (chan?_mem hc))
  fb := by
    rcases exec_fb h with e | ⟨v, e⟩ | ⟨e, _⟩ <;> rw [e]
    · exact hs.fb
    · exact Memory.wf_write hs.fb _ _
    · exact Memory.wf_nil

/-- Whatever its turn, a step holds the state or executes an instruction in it, but for the agenda and the count of free
choices. -/
theorem step_holds_or_executes (h : step s = .next t) :
    ∃ a n, t = { s with agenda := a, choices := n } ∨ ∃ i, exec i { s with agenda := a, choices := n } = .next t := by
  rcases step_next h with ⟨i, u, hf, hx⟩ | hf
  · rcases fetch_run hf with ⟨_, _, ⟨_, rfl⟩ | ⟨_, rest, _, rfl⟩⟩ | ⟨_, _, rest, _, _, rfl⟩
    · exact ⟨s.agenda, s.choices + 1, .inr ⟨i, hx⟩⟩
    · exact ⟨rest, s.choices, .inr ⟨i, hx⟩⟩
    · exact ⟨rest, s.choices, .inr ⟨i, hx⟩⟩
  · obtain ⟨_, _, ⟨_, rfl⟩ | ⟨_, rest, _, rfl⟩⟩ := fetch_idle hf
    · exact ⟨t.agenda, t.choices, .inl rfl⟩
    · exact ⟨rest, s.choices, .inl rfl⟩

/-- Settles O49: the turn touches no store, and the instruction executed on it writes a canonical store at one index,
relabels it or clears it. -/
theorem stepKeepsStoresCanonical : Obligations.StepKeepsStoresCanonical := by
  intro s t hs h
  obtain ⟨a, n, rfl | ⟨i, hx⟩⟩ := step_holds_or_executes h
  · exact ⟨hs.cb, hs.fb⟩
  · exact exec_storesCanonical hx ⟨hs.cb, hs.fb⟩

/-- Settles O16: what a decoder step writes is within the frame of R199, which holds no channel. -/
theorem decodeStepWritesOnlyItsOwn : Obligations.DecodeStepWritesOnlyItsOwn := fun _ _ h =>
  (execStepDecode_writes h).frame

end Sys2Proof.Machine
end

section
/-!
The order of a byte's bits (R77), the hand-over of a buffer with its capture command (R83, R230), and the duties of the
capture sources (R86, R130, R223).
-/

namespace Sys2Proof.Machine

variable {s t : State}

/-! ## Byte assembly -/

/-- After at most eight bits the last one stands in bit 0, and each earlier one a bit higher (R16, R77). -/
theorem getLsbD_foldl_shiftIn (acc : Byte) (bits : List Bool) (h8 : bits.length ≤ 8) (k : Nat) (hk : k < bits.length) :
    (bits.foldl shiftIn acc).getLsbD (bits.length - 1 - k) = bits[k] := by
  induction bits using List.reverseRecOn with
  | nil => cases hk
  | append_singleton bits b ih =>
    simp only [List.length_append, List.length_singleton] at h8 hk ⊢
    rw [List.foldl_append, List.foldl_cons, List.foldl_nil, getLsbD_shiftIn]
    rcases Nat.lt_succ_iff_lt_or_eq.1 hk with hlt | rfl
    · have hpos : bits.length + 1 - 1 - k ≠ 0 := by omega
      have hbyte : bits.length + 1 - 1 - k < 8 := by omega
      have hdown : bits.length + 1 - 1 - k - 1 = bits.length - 1 - k := by omega
      rw [if_neg hpos, decide_eq_true hbyte, Bool.true_and, hdown, ih (by omega) hlt, List.getElem_append_left hlt]
    · simp

/-- Settles O26: with eight bits the first stands in bit 7 and the last in bit 0. -/
theorem bytesAssembleMsbFirst : Obligations.BytesAssembleMsbFirst := by
  intro bits hlen k hk
  have hk : k < bits.length := by omega
  have hbit := getLsbD_foldl_shiftIn 0 bits hlen.le k hk
  rwa [hlen, ← List.getD_eq_getElem bits false hk] at hbit

/-! ## Ownership -/

/-- A buffer keeps its owner, or passes to the dispatcher with DISABLE_CAPTURE (R229) or back with RESET_AND_REARM (R232), or
back at reset (R300). -/
theorem exec_owner {i : Instr} {c : Nat} {ch ch' : Channel} (h : exec i s = .next t) (hc : s.chan? c = some ch)
    (hc' : t.chan? c = some ch') :
    ch'.owner = ch.owner ∨
    (ch'.owner = .sw ∧ t.commands = s.commands ++ [{ op := .disableCapture, ch := c }]) ∨
    (ch'.owner = .hw ∧ (t.commands = s.commands ++ [{ op := .resetAndRearm, ch := c }] ∨ i = .stepReset)) := by
  rcases exec_channel h hc hc' with rfl | ⟨rfl, _⟩ | ⟨rfl, hi⟩ | ⟨rfl, _⟩ | ⟨rfl, _⟩ | ⟨j, v, rfl, _⟩ | ⟨rfl, _⟩ | rfl |
    ⟨rfl, _⟩ | ⟨rfl, _⟩ | ⟨rfl, hcmd, _⟩ | ⟨rfl, hcmd, _⟩
  · exact .inl rfl
  · exact .inl rfl
  · exact .inr (.inr ⟨rfl, .inr hi⟩)
  · exact .inl rfl
  · exact .inl rfl
  · exact .inl rfl
  · exact .inl rfl
  · exact .inl rfl
  · exact .inl rfl
  · exact .inl rfl
  · exact .inr (.inl ⟨rfl, hcmd⟩)
  · exact .inr (.inr ⟨rfl, .inl hcmd⟩)

/-- Settles O53: a buffer whose owner changes is in the case of the owner it has then. -/
theorem ownershipMovesWithItsCommand : Obligations.OwnershipMovesWithItsCommand := by
  intro i s t c ch ch' hc hc' h
  rcases exec_owner h hc hc' with e | ⟨e, hcmd⟩ | ⟨e, hcmd⟩
  · exact ⟨fun hhw hsw => by simp [hhw, hsw] at e, fun hsw hhw => by simp [hhw, hsw] at e⟩
  · exact ⟨fun _ _ => hcmd, fun _ hhw => by simp [hhw] at e⟩
  · exact ⟨fun _ hsw => by simp [hsw] at e, fun _ _ => hcmd⟩

/-! ## Duties -/

/-- A capture-done is refused outside a capture (R86, R224). -/
theorem execInCaptureDone_refused {c : Nat} {ch : Channel} (h : s.chan? c = some ch) (hs : ch.chstate ≠ .capturing) :
    execInCaptureDone c s = .refused .captureDuty := by
  rw [execInCaptureDone, withChan_some h, if_neg hs]

/-- Settles O30: each broken duty is one of the conditions of a cell write, or the one of a capture-done, that fails. -/
theorem captureDutiesAreKept : Obligations.CaptureDutiesAreKept := by
  intro c i v s ch hc
  refine ⟨fun hbroken => execInCellWrite_refused hc ?_ v, fun hs => execInCaptureDone_refused hc hs⟩
  rintro ⟨hown, hstate, hstop, hpos, hend⟩
  rcases hbroken with hb | hb | hb | hb | hb
  · cases hown.symm.trans hb
  · exact hb hstate
  · cases hstop.symm.trans hb
  · exact hb hpos
  · exact absurd hend (Nat.not_lt.2 hb)

end Sys2Proof.Machine
end

section
/-!
The words of the formats whose bits the spec gives (30_encoding.md): the class of a cell word and whether it is anomalous
(R103, R104), the event of a status bit (R112) and the table entries of the two documented headers (R33, R109).
-/

namespace Sys2Proof

variable {cfg : Config} {w h b : Nat}

/-! ## The cell word -/

/-- Within 2*TW bits the high ticks are all that stands above the low ones (R101). -/
theorem cellHigh_eq_div (hw : w < 2 ^ (2 * cfg.tw)) : cellHigh cfg w = w / 2 ^ cfg.tw := by
  refine Nat.mod_eq_of_lt ?_
  rw [Nat.div_lt_iff_lt_mul (Nat.two_pow_pos _), ← pow_add, ← two_mul]
  exact hw

theorem cellClass_data0 (h1 : 1 ≤ h) (hp : h ≤ cfg.p / 2) : cellClass cfg h = .data0 := by
  rw [cellClass, if_neg (by omega), if_pos hp]

theorem cellClass_data1 (hp : cfg.p / 2 + 1 ≤ h) : cellClass cfg h = .data1 := by
  rw [cellClass, if_neg (by omega), if_neg (by omega)]

/-- Settles O3: a word of 2*TW bits is no rejection, and the range of its high ticks is its class. -/
theorem cellWordHasOneClass : Obligations.CellWordHasOneClass := by
  intro ctx w hw
  have hfit : ¬w ≥ 2 ^ (2 * ctx.cfg.tw) := Nat.not_le.2 hw
  rw [← cellHigh_eq_div hw, decode, decodeCell, if_neg hfit]
  refine ⟨fun h0 => ?_, fun h1 hp => ?_, fun hp => ?_⟩
  · rw [(cellClass_sentinel _ _).2 h0]; rfl
  · rw [cellClass_data0 h1 hp]; rfl
  · rw [cellClass_data1 hp]; rfl

/-- A non-sentinel word of 2*TW bits is decoded by its duration alone (R104). -/
theorem decodeAttribute_eq (hw : w < 2 ^ (2 * cfg.tw)) (hz : cellHigh cfg w ≠ 0) :
    decodeAttribute cfg w =
      if isAnomalous cfg (cellLow cfg w) (cellHigh cfg w) then .ok (.cellAnomalous (cellLow cfg w) (cellHigh cfg w))
      else .ok (.cellInwindow (cellLow cfg w) (cellHigh cfg w)) := by
  rw [decodeAttribute, if_neg (Nat.not_le.2 hw), if_neg (by rwa [isSentinel_iff])]

/-- Settles O8: a non-sentinel cell is decoded by the anomaly test of its two fields. -/
theorem windowIsInclusive : Obligations.WindowIsInclusive := by
  intro ctx w hw
  rw [← cellHigh_eq_div hw, decode]
  intro hz
  rw [decodeAttribute_eq hw hz]
  exact ⟨fun hout => if_pos ((isAnomalous_iff _ _ _).2 hout),
    fun hlo hhi => if_neg (Bool.eq_false_iff.1 ((not_isAnomalous_iff _ _ _).2 ⟨hlo, hhi⟩))⟩

/-! ## The status bit -/

theorem bitIsError_iff : bitIsError b = true ↔ b % 2 = 1 := beq_iff_eq

/-- Settles O4: an index within the status word is no rejection, and its parity is its kind of event. -/
theorem statusBitNamesEvent : Obligations.StatusBitNamesEvent := by
  intro ctx b hb
  rw [decode, decodeStatusBit, if_neg (Nat.not_le.2 hb)]
  exact ⟨fun heven => if_neg (by rw [bitIsError_iff]; omega), fun hodd => if_pos (bitIsError_iff.2 hodd)⟩

/-! ## The documented headers -/

theorem tableRead_01 (cfg : Config) : tableRead cfg 0x01 = 1 := if_pos rfl

theorem tableRead_09 (cfg : Config) : tableRead cfg 0x09 = 3 := by
  rw [tableRead, if_neg (by decide), if_pos rfl]

end Sys2Proof

namespace Sys2Proof.Machine

variable {s : State}

theorem headerSelected_iff {hb : Byte} : headerSelected hb s = true ↔ OnHeader s hb := by
  simp [headerSelected, headerDue, headerByte, running, OnHeader, and_assoc]

/-- Settles O24: the rows of both headers put the boundary at eight times the entry that every configuration has. -/
theorem documentedHeadersSetBoundary : Obligations.DocumentedHeadersSetBoundary := by
  intro s hb hs hk hn
  refine ⟨fun hf => ?_, fun hf => ?_⟩
  · exact execHeader01_next.2 ⟨headerSelected_iff.2 ⟨hb, hs, hk, hn, hf⟩, by rw [tableRead_01]; rfl⟩
  · exact execHeader09_next.2 ⟨headerSelected_iff.2 ⟨hb, hs, hk, hn, hf⟩, by rw [tableRead_09]; rfl⟩

end Sys2Proof.Machine
end

section
/-!
The two ports (R125, R130): what a capture command does at its source and how long a stop lasts (R237), and that the sink
only receives, with no ERROR record inside a frame (R241).
-/

namespace Sys2Proof.Machine

variable {s t : State} {i : Instr} {c : Nat} {ch ch' : Channel}

/-! ## The capture commands -/

/-- A command to a channel that exists is recorded, and its source obeys it. -/
theorem capCmd_eq (hc : s.chan? c = some ch) (op : CapOp) :
    capCmd op c s = { s with
      commands := s.commands ++ [{ op := op, ch := c }]
      channels := s.channels.set c (obeyCommand op ch) } := by
  rw [capCmd, State.modifyChan, modify_eq_set hc]

theorem chan?_capCmd (hc : s.chan? c = some ch) (op : CapOp) :
    (capCmd op c s).chan? c = some (obeyCommand op ch) :=
  (chan?_modifyChan_same s c (obeyCommand op)).trans (congrArg _ hc)

/-- A command keeps every cell's word, whatever capture it is from (R237). -/
theorem storedWord_obeyCommand (op : CapOp) (ch : Channel) (j : Nat) :
    storedWord (obeyCommand op ch) j = storedWord ch j := by
  cases op with
  | disableCapture => rfl
  | resetAndRearm => simp [storedWord, obeyCommand, read_stale, Function.comp_def]

/-- A stopped source stays stopped until its channel is re-armed, by the command alone or in the finish step, or reset
(R130, R237, R304). -/
theorem exec_stopped (h : exec i s = .next t) (hc : s.chan? c = some ch) (hc' : t.chan? c = some ch')
    (hst : ch.stopped = true) :
    ch'.stopped = true ∨ i = .cmdResetAndRearm c ∨ (s.dch = c ∧ (i = .stepFinish ∨ ∃ r, i = .sinkSummary r)) ∨
      i = .stepReset := by
  cases exec_channelEffect h hc hc' with
  | reset hi => exact .inr (.inr (.inr hi))
  | rearmed hi => exact .inr (.inl hi)
  | handedBack _ hd hi => exact .inr (.inr (.inl ⟨hd, hi⟩))
  | disabled => exact .inl rfl
  | taken => exact .inl rfl
  | _ => exact .inl hst

/-- Settles O41: both commands are recorded and obeyed. The source's write position refuses every index but 0 after a
re-arm, and its stop flag refuses every index while it is stopped. -/
theorem commandsReachTheCaptureSource : Obligations.CommandsReachTheCaptureSource := by
  refine ⟨fun c s ch hc => ⟨?_, ?_⟩, fun c s ch hc hst => ⟨fun j v => ?_, fun i t h => ?_⟩⟩
  · exact execCmdDisableCapture_next.2 ⟨⟨ch, hc⟩, (capCmd_eq hc .disableCapture).symm⟩
  · have hrearm : exec (.cmdResetAndRearm c) s = .next (capCmd .resetAndRearm c s) :=
      execCmdResetAndRearm_next.2 ⟨⟨ch, hc⟩, rfl⟩
    have ht := chan?_capCmd hc .resetAndRearm
    refine ⟨_, _, hrearm, capCmd_eq hc _, rfl, storedWord_obeyCommand _ ch, fun j v hj => ?_, fun hown hs hn v => ?_⟩
    · exact execInCellWrite_refused ht (fun ⟨_, _, _, hpos, _⟩ => hj hpos) v
    · exact ⟨_, execInCellWrite_next.2 ⟨_, ht, ⟨hown, hs, rfl, rfl, hn⟩, rfl⟩⟩
  · exact execInCellWrite_refused hc (fun ⟨_, _, hrun, _⟩ => by cases hst.symm.trans hrun) v
  · obtain ⟨ch', hc'⟩ := exec_chan_exists h hc
    exact (exec_stopped h hc hc' hst).imp_left fun hst' => ⟨ch', hc', hst'⟩

/-! ## The sink -/

/-- The sink only receives, and an ERROR record from a select step only (R125, R233). -/
theorem exec_sink (h : exec i s = .next t) :
    ∃ rs, t.sink = s.sink ++ rs ∧ ∀ c, Record.error c ∈ rs → s.bstate = .select := by
  have quiet (hs : t.sink = s.sink) : ∃ rs, t.sink = s.sink ++ rs ∧ ∀ c, Record.error c ∈ rs → s.bstate = .select :=
    ⟨[], by rw [hs, List.append_nil], nofun⟩
  by_cases hr : i = .stepReset
  · subst hr
    obtain rfl := execStepReset_next.1 h
    exact quiet rfl
  · cases exec_dispatchEffect h hr with
    | byte v _ _ hs => exact ⟨_, hs, by simp⟩
    | error d _ _ _ hd _ hs => exact ⟨_, hs, fun _ _ => hd⟩
    | finished r _ _ hs => exact ⟨_, hs, by simp⟩
    | quiet _ hs => exact quiet hs
    | entry _ _ _ hs => exact quiet hs
    | exhausted _ _ _ _ hs => exact quiet hs
    | frame _ _ hs => exact quiet hs
    | decoded _ _ _ hs => exact quiet hs

/-- Settles O57: an ERROR record comes from a select step, and a frame is in no such step. -/
theorem noErrorRecordInsideFrame : Obligations.NoErrorRecordInsideFrame := by
  intro i s t h
  obtain ⟨rs, hs, herr⟩ := exec_sink h
  refine ⟨rs, hs, fun hb c hc => ?_⟩
  simp [herr c hc] at hb

end Sys2Proof.Machine
end

section
/-!
The bit cell (40_bitcell.md): its bit and its duration (R142, R145), and the rows of a sentinel and of an in-window cell
(R141, R146, R147, R174).
-/

namespace Sys2Proof

variable {cfg : Config} {l h : Nat}

/-! ## The bit and the duration -/

theorem bitOf_iff : bitOf cfg h = true ↔ 2 * h > cfg.p := decide_eq_true_iff

/-- For odd P too, more than half of P is at least one more than its quotient by two (R142). -/
theorem two_mul_gt_iff_half_lt (p h : Nat) : 2 * h > p ↔ h ≥ p / 2 + 1 := by omega

/-- Settles O6: the bit is the comparison of twice the high ticks, which the integer half of P decides too. -/
theorem bitExceedsHalfPeriod : Obligations.BitExceedsHalfPeriod := fun cfg h =>
  ⟨bitOf_iff, bitOf_iff.trans (two_mul_gt_iff_half_lt cfg.p h)⟩

/-- Two fields of TW bits add up within TW + 1 bits (R145). -/
theorem dur_lt (hl : l < 2 ^ cfg.tw) (hh : h < 2 ^ cfg.tw) : dur l h < 2 ^ (cfg.tw + 1) :=
  calc l + h < 2 ^ cfg.tw + 2 ^ cfg.tw := Nat.add_lt_add hl hh
    _ = 2 ^ (cfg.tw + 1) := (Nat.two_pow_succ cfg.tw).symm

/-- Settles O7: the duration is the sum of the two fields by definition, and each field is within TW bits. -/
theorem durationNeverWraps : Obligations.DurationNeverWraps := fun cfg w =>
  ⟨rfl, dur_lt (cellLow_lt cfg w) (cellHigh_lt cfg w)⟩

end Sys2Proof

namespace Sys2Proof.Machine

variable {s : State}

/-! ## The rows of a cell -/

theorem cellSelected_iff : cellSelected s = true ↔ OnCell s := by
  simp [cellSelected, running_iff, OnCell, and_assoc]

/-- Settles O9: the decoder is on a cell, which selects the sentinel row, and the row ends the frame. -/
theorem sentinelEndsFrame : Obligations.SentinelEndsFrame := by
  intro l s hb hs hc
  have hsel : cellSelected s = true := cellSelected_iff.2 ⟨hb, hs, hc⟩
  exact (execCellSentinel_next l).2 ⟨hsel, rfl⟩

/-- Settles O20: the cell is no sentinel and its duration is within the window, which selects the row that records
nothing. -/
theorem inWindowCellRecordsNothing : Obligations.InWindowCellRecordsNothing := by
  intro l h s hb hs hc hz hlo hhi
  have hsel : cellSelected s = true := cellSelected_iff.2 ⟨hb, hs, hc⟩
  have hsent : isSentinel h = false := Bool.eq_false_iff.2 (mt (isSentinel_iff h).1 hz)
  have hwin : isAnomalous s.cfg l h = false := (not_isAnomalous_iff s.cfg l h).2 ⟨hlo, hhi⟩
  exact execCellInwindow_next.2 ⟨⟨hsel, hsent, hwin⟩, rfl⟩

end Sys2Proof.Machine
end

section
/-!
The rows of the frame decoder (41_frame_decoder.md): the two ends of a frame (R173, R174), the recorded anomaly (R178-R180),
the passed turnaround (R183, R184), the header's table entry (R177) and the completed byte (R187).
-/

namespace Sys2Proof.Machine

variable {s t : State}

/-! ## The ends of a frame -/

/-- Settles O10: the decoder is on a cell whose high ticks are 0, and the step ends the frame. -/
theorem decodeStepStopsAtSentinel : Obligations.DecodeStepStopsAtSentinel := by
  intro s ch hb hs hcur hc hz
  exact execStepDecode_next.2 ⟨(running_iff s).2 ⟨hb, hs⟩, .inr ⟨hcur, ⟨ch, hc⟩, (if_pos hz).symm⟩⟩

/-- Settles O11: past the last cell the step ends the frame, whatever the channel. -/
theorem decodeStepStopsAtBufferEnd : Obligations.DecodeStepStopsAtBufferEnd := by
  intro s hb hs hcur
  exact execStepDecode_next.2 ⟨(running_iff s).2 ⟨hb, hs⟩, .inl ⟨hcur, rfl⟩⟩

/-! ## The anomaly, the turnaround and the header -/

theorem not_isSentinel {h : Nat} (hz : h ≠ 0) : isSentinel h = false := Bool.eq_false_iff.2 (mt (isSentinel_iff h).1 hz)

/-- An anomaly is recorded at `CUR`, and is the boundary where the header left it open (R178-R180). -/
theorem recordAnomaly_eq (s : State) :
    recordAnomaly s = { s with
      dec := { s.dec with
        anomv := true
        anomidx := s.dec.cur
        skipk := if s.dec.skipk = .unresolved then .resolved else s.dec.skipk
        skipidx := if s.dec.skipk = .unresolved then s.dec.cur else s.dec.skipidx } } := by
  unfold recordAnomaly
  split <;> rfl

/-- Settles O19: the cell is no sentinel and its duration is outside the window, which selects the row that records it. -/
theorem anomalyIsRecorded : Obligations.AnomalyIsRecorded := by
  intro l h s hb hs hcur hz hout
  have hsel : cellSelected s = true := cellSelected_iff.2 ⟨hb, hs, hcur⟩
  have hanom : isAnomalous s.cfg l h = true := (isAnomalous_iff s.cfg l h).2 hout
  exact execCellAnomalous_next.2 ⟨⟨hsel, not_isSentinel hz, hanom⟩, (recordAnomaly_eq s).symm⟩

/-- Why the frame ends past the turnaround: the buffer end, then a sentinel, else it goes on as it stood (R184). -/
theorem passTurnaround_stop (s : State) :
    (passTurnaround s).dec.stop =
      if s.dec.cur + 1 ≥ s.cfg.ncell then .noSentinel
      else if cellHigh s.cfg (cellRead s s.dch (s.dec.cur + 1)) = 0 then .sentinel
      else s.dec.stop := by
  unfold passTurnaround
  simp only [isSentinel_iff]
  split
  · rfl
  · split
    · next hz => exact (if_pos hz).symm
    · next hz => exact (if_neg hz).symm

/-- Settles O21: the cursor stands at the known boundary, which selects the row that passes it. -/
theorem turnaroundIsPassed : Obligations.TurnaroundIsPassed := by
  intro l h s ch hb hs hcur hc hk hi hz
  have hsel : cellSelected s = true := cellSelected_iff.2 ⟨hb, hs, hcur⟩
  have hat : atTurnaround s = true := (atTurnaround_iff s).2 ⟨hk, hi⟩
  refine (execCellTurnaround_next l).2 ⟨⟨hsel, hat, not_isSentinel hz⟩, ⟨ch, hc⟩, ?_⟩
  rw [passTurnaround_eq, passTurnaround_dec, passTurnaround_stop, hs]

/-- Settles O23: the header's table entry selects one of the two rows, and each sets the boundary as its entry says. -/
theorem headerEntrySetsBoundary : Obligations.HeaderEntrySetsBoundary := by
  intro hb s hd hs hk hn hf
  have hsel : headerSelected hb s = true := headerSelected_iff.2 ⟨hd, hs, hk, hn, hf⟩
  exact ⟨fun hne => execHeaderKnown_next.2 ⟨⟨hsel, hne⟩, rfl⟩, fun h0 => execHeaderDynamic_next.2 ⟨⟨hsel, h0⟩, rfl⟩⟩

/-! ## The completed byte -/

theorem byteDue_iff {c : Nat} {v : Byte} :
    byteDue c v s = true ↔
      running s = true ∧ s.dch = c ∧ s.dec.acc = v ∧ s.dec.nb = 8 * (s.dec.len + 1) ∧ s.dec.len < s.cfg.nbyte := by
  simp [byteDue, and_assoc]

/-- A completed byte reads back at `LEN`, and every other byte of the frame buffer reads as before (R187). -/
theorem frameRead_completeByte (s : State) (j : Nat) :
    frameRead (completeByte s) j = if j = s.dec.len then s.dec.acc else frameRead s j := by
  rw [frameRead, completeByte_fb, Memory.read_write]
  split <;> rfl

/-- Settles O25: the byte in the accumulator is due, and its row writes it at `LEN` alone. -/
theorem completedByteIsEmitted : Obligations.CompletedByteIsEmitted := by
  intro s hb hs hn hlen
  have hdue : byteDue s.dch s.dec.acc s = true := byteDue_iff.2 ⟨(running_iff s).2 ⟨hb, hs⟩, rfl, rfl, hn, hlen⟩
  refine ⟨completeByte s, execSinkByte_next.2 ⟨hdue, rfl⟩, rfl, ?_, fun j hj => ?_⟩
  · rw [frameRead_completeByte, if_pos rfl]
  · rw [frameRead_completeByte, if_neg hj]

end Sys2Proof.Machine
end

section
/-!
The data cell (R172): each class's row is the step on a cell, the decoder step executes the row its cell decodes to (R113),
what the step gives on a plain cell (R185-R188), and that its anomaly is the one of the cell at `CUR` (R178, R181).
-/

namespace Sys2Proof.Machine

variable {s t : State} {ch : Channel} {l h : Nat} {bit : Bool}

/-! ## The rows of the two classes -/

theorem exec_cellData0 (ho : OnCell s) (hc : s.chan? s.dch = some ch) (l : Nat) (h1 : 1 ≤ h) (hp : h ≤ s.cfg.p / 2) :
    exec (.cellData0 l h) s = .next (runCell l h false s) :=
  execCellData0_next.2 ⟨⟨cellSelected_iff.2 ho, cellClass_data0 h1 hp⟩, ⟨ch, hc⟩, rfl⟩

theorem exec_cellData1 (ho : OnCell s) (hc : s.chan? s.dch = some ch) (l : Nat) (hp : s.cfg.p / 2 + 1 ≤ h) :
    exec (.cellData1 l h) s = .next (runCell l h true s) :=
  execCellData1_next.2 ⟨⟨cellSelected_iff.2 ho, cellClass_data1 hp⟩, ⟨ch, hc⟩, rfl⟩

/-- Settles O13: the class selects its row, and the step on a data cell stays within the frame of R199. -/
theorem dataCellsComplete : Obligations.DataCellsComplete := by
  intro l h s ch hb hs hcur hc
  have ho : OnCell s := ⟨hb, hs, hcur⟩
  exact ⟨fun h1 hp => ⟨_, exec_cellData0 ho hc l h1 hp, (runCell_writes l h false s).frame⟩,
    fun hp => ⟨_, exec_cellData1 ho hc l hp, (runCell_writes l h true s).frame⟩⟩

/-- A data cell's row runs it with its bit (R142-R144). -/
theorem exec_cellData (ho : OnCell s) (hc : s.chan? s.dch = some ch) (l : Nat) (hz : h ≠ 0) :
    exec (if 2 * h > s.cfg.p then .cellData1 l h else .cellData0 l h) s =
      .next (runCell l h (bitOf s.cfg h) s) := by
  split
  · next hp => rw [bitOf_iff.2 hp, exec_cellData1 ho hc l (by omega)]
  · next hp => rw [Bool.eq_false_iff.2 (mt bitOf_iff.1 hp), exec_cellData0 ho hc l (by omega) (by omega)]

/-! ## The cell word at the cursor -/

/-- Every cell word that is read fits its width: a stored one by what may be stored, an unspecified one by its form (R71). -/
theorem cellRead_lt (hr : s.StoresInRange) (c j : Nat) : cellRead s c j < 2 ^ (2 * s.cfg.tw) := by
  have hfree : ∀ n : Nat, n % 2 ^ (2 * s.cfg.tw) < 2 ^ (2 * s.cfg.tw) := fun n => Nat.mod_lt n (Nat.two_pow_pos _)
  unfold cellRead
  split
  · next ch hc =>
    unfold cbRead
    split
    · next e he =>
      split
      · exact (hr.cb ch (chan?_mem hc) _ (Memory.mem_of_read he)).2
      · exact hfree _
    · exact hfree _
  · exact hfree _

/-- The decoder step on a data cell runs the cell at `CUR` with its own bit. -/
theorem exec_stepDecode_data (ho : OnCell s) (hc : s.chan? s.dch = some ch) {w : Word}
    (hw : cellRead s s.dch s.dec.cur = w) (hz : cellHigh s.cfg w ≠ 0) :
    exec .stepDecode s =
      .next (runCell (cellLow s.cfg w) (cellHigh s.cfg w) (bitOf s.cfg (cellHigh s.cfg w)) s) := by
  obtain ⟨hb, hs, hcur⟩ := ho
  subst hw
  exact execStepDecode_next.2 ⟨(running_iff s).2 ⟨hb, hs⟩, .inr ⟨hcur, ⟨ch, hc⟩, (if_neg hz).symm⟩⟩

/-- A data cell's word decodes to the row of its bit (R103, R142). -/
theorem decode_cellData {ctx : DecodeContext} {w : Word} (hw : w < 2 ^ (2 * ctx.cfg.tw)) (hz : cellHigh ctx.cfg w ≠ 0) :
    decode ctx .cellWord w =
      .ok (if 2 * cellHigh ctx.cfg w > ctx.cfg.p then .cellData1 (cellLow ctx.cfg w) (cellHigh ctx.cfg w)
        else .cellData0 (cellLow ctx.cfg w) (cellHigh ctx.cfg w)) := by
  obtain ⟨_, hdata0, hdata1⟩ := cellWordHasOneClass ctx w hw
  rw [← cellHigh_eq_div hw] at hdata0 hdata1
  split
  · exact hdata1 (by omega)
  · exact hdata0 (by omega) (by omega)

/-- Settles O15: the sentinel's word decodes to the row that ends the frame, and a data cell's to the row of its bit. -/
theorem decodeStepExecutesFetchedCell : Obligations.DecodeStepExecutesFetchedCell := by
  intro s ch hr hb hs hcur hc
  have ho : OnCell s := ⟨hb, hs, hcur⟩
  have hlt := cellRead_lt hr s.dch s.dec.cur
  by_cases hz : cellHigh s.cfg (cellRead s s.dch s.dec.cur) = 0
  · obtain ⟨hsent, _, _⟩ := cellWordHasOneClass s.context _ hlt
    refine ⟨_, hsent (cellHigh_eq_div hlt ▸ hz), ?_⟩
    rw [decodeStepStopsAtSentinel s ch hb hs hcur hc hz, sentinelEndsFrame _ s hb hs hcur]
  · exact ⟨_, decode_cellData hlt hz, (exec_stepDecode_data ho hc rfl hz).trans (exec_cellData ho hc _ hz).symm⟩

/-! ## The plain cell -/

/-- S6 to S8 by their two conditions: the capacity, and the eighth bit (R185-R188). -/
theorem consumeBit_eq (bit : Bool) (s : State) :
    consumeBit bit s =
      if s.dec.nb = 8 * s.cfg.nbyte then { s with dec := { s.dec with stop := .frameTooLong } }
      else if (s.dec.nb + 1) % 8 = 0 then
        { s with
          fb := s.fb.write s.dec.len (shiftIn s.dec.acc bit)
          sink := s.sink ++ [.byte s.dch (shiftIn s.dec.acc bit)]
          dec := { s.dec with acc := 0, nb := s.dec.nb + 1, len := s.dec.len + 1, cur := s.dec.cur + 1 } }
      else { s with
        dec := { s.dec with acc := shiftIn s.dec.acc bit, nb := s.dec.nb + 1, cur := s.dec.cur + 1 } } := by
  rcases consumeBit_cases bit s with ⟨hn, e⟩ | ⟨hn, hb, e⟩ | ⟨hn, hb, e⟩
  · rw [e, if_pos hn]; rfl
  · rw [e, if_neg hn, if_neg hb]
  · rw [e, if_neg hn, if_pos hb]

/-- Those are the lines S6 to S8 of the listing, for the bit of a cell's high ticks (R142). -/
theorem consumeBit_eq_assemble (s : State) (h : Nat) :
    consumeBit (bitOf s.cfg h) s = Listing.assemble s s.dec h := by
  rw [consumeBit_eq]; rfl

theorem resolveHeader_of_settled (hs : s.HeaderSettled) : resolveHeader s = s := by
  rcases resolveHeader_cases s with ⟨_, e⟩ | ⟨hp, hn, _⟩
  · exact e
  · exact absurd hn (hs hp)

/-- A cell that resolves no header, is in the window and is no turnaround only gives its bit. -/
theorem runCell_plain (hs : s.HeaderSettled) (hw : isAnomalous s.cfg l h = false) (ha : atTurnaround s = false)
    (bit : Bool) : runCell l h bit s = consumeBit bit s := by
  have hn : noteAnomaly l h s = s := if_neg (Bool.eq_false_iff.1 hw)
  rw [runCell, resolveHeader_of_settled hs, hn]
  exact if_neg (Bool.eq_false_iff.1 ha)

/-- Settles O12: the row of the cell's bit runs the cell, and S3 to S5 have nothing to do. -/
theorem plainDataCellGivesItsBit : Obligations.PlainDataCellGivesItsBit := by
  intro l h s ch hb hs hcur hc hz hw hheader hturn
  have hsettled : s.HeaderSettled := fun hp hn => hheader ⟨hp, hn⟩
  have ha : atTurnaround s = false := Bool.eq_false_iff.2 (mt (atTurnaround_iff s).1 hturn)
  rw [exec_cellData ⟨hb, hs, hcur⟩ hc l hz, runCell_plain hsettled hw ha, consumeBit_eq_assemble]

/-! ## The anomaly registers -/

theorem consumeBit_anomaly (bit : Bool) (s : State) :
    (consumeBit bit s).dec.anomv = s.dec.anomv ∧ (consumeBit bit s).dec.anomidx = s.dec.anomidx := by
  rcases consumeBit_cases bit s with ⟨_, e⟩ | ⟨_, _, e⟩ | ⟨_, _, e⟩ <;> rw [e] <;> exact ⟨rfl, rfl⟩

theorem passTurnaround_anomaly (s : State) :
    (passTurnaround s).dec.anomv = s.dec.anomv ∧ (passTurnaround s).dec.anomidx = s.dec.anomidx := by
  rw [passTurnaround_dec]; exact ⟨rfl, rfl⟩

theorem noteAnomaly_anomaly (l h : Nat) (s : State) :
    (noteAnomaly l h s).dec.anomv = (s.dec.anomv || isAnomalous s.cfg l h) ∧
    (noteAnomaly l h s).dec.anomidx = if isAnomalous s.cfg l h then s.dec.cur else s.dec.anomidx := by
  rw [noteAnomaly_dec]
  cases isAnomalous s.cfg l h <;> simp

/-- S4 alone writes the anomaly registers, before the turnaround is passed (R178, R181). -/
theorem runCell_anomaly (l h : Nat) (bit : Bool) (s : State) :
    (runCell l h bit s).dec.anomv = (s.dec.anomv || isAnomalous s.cfg l h) ∧
    (runCell l h bit s).dec.anomidx = if isAnomalous s.cfg l h then s.dec.cur else s.dec.anomidx := by
  have hn := noteAnomaly_anomaly l h (resolveHeader s)
  rw [resolveHeader_cfg, resolveHeader_dec] at hn
  obtain ⟨hv, hi⟩ := hn
  rw [← hv, ← hi]
  unfold runCell
  dsimp only
  split
  · obtain ⟨hpv, hpi⟩ := passTurnaround_anomaly (noteAnomaly l h (resolveHeader s))
    rw [← hpv, ← hpi]
    split
    · exact consumeBit_anomaly _ _
    · exact ⟨rfl, rfl⟩
  · exact consumeBit_anomaly bit _

/-- Settles O22: the step runs the cell at `CUR`, and only that cell's test writes the anomaly registers. -/
theorem cellAfterTurnaroundIsNotTested : Obligations.CellAfterTurnaroundIsNotTested := by
  intro s t ch hb hs hcur hc hz h
  obtain rfl := next_inj.1 ((exec_stepDecode_data ⟨hb, hs, hcur⟩ hc rfl hz).symm.trans h)
  exact runCell_anomaly _ _ _ s

end Sys2Proof.Machine
end

section
/-!
The bound on a frame (R200): a decoder step ends the frame or moves the cursor on, and the cursor runs out of cells.
-/

namespace Sys2Proof.Machine

variable {s t : State} {ch : Channel}

/-! ## The progress of one step -/

/-- The frame has ended, or the cursor has moved past cell `cur`. -/
def State.PastCell (t : State) (cur : Nat) : Prop := t.dec.stop ≠ .none ∨ cur + 1 ≤ t.dec.cur

theorem consumeBit_pastCell (bit : Bool) (s : State) : (consumeBit bit s).PastCell s.dec.cur := by
  rcases consumeBit_cases bit s with ⟨_, e⟩ | ⟨_, _, e⟩ | ⟨_, _, e⟩ <;> rw [e]
  · exact .inl nofun
  · exact .inr le_rfl
  · exact .inr le_rfl

/-- Past the turnaround the cursor moves on, and further with the bit of the next cell. -/
theorem runCell_pastCell (l h : Nat) (bit : Bool) (s : State) : (runCell l h bit s).PastCell s.dec.cur := by
  have hn : (noteAnomaly l h (resolveHeader s)).dec.cur = s.dec.cur := by simp
  rw [← hn]
  unfold runCell
  dsimp only
  generalize noteAnomaly l h (resolveHeader s) = n
  have hp : (passTurnaround n).dec.cur = n.dec.cur + 1 := by rw [passTurnaround_dec]
  split
  · split
    · exact (consumeBit_pastCell _ (passTurnaround n)).imp_right fun hc => by omega
    · next hstop => exact .inl hstop
  · exact consumeBit_pastCell bit n

theorem execStepDecode_pastCell (h : execStepDecode s = .next t) : t.PastCell s.dec.cur := by
  obtain ⟨_, ⟨_, rfl⟩ | ⟨_, _, rfl⟩⟩ := execStepDecode_next.1 h
  · exact .inl nofun
  · dsimp only
    split
    · exact .inl nofun
    · exact runCell_pastCell _ _ _ s

/-- The running decoder of a channel that exists always has a step (R260). -/
theorem execStepDecode_exists (hr : running s = true) (hc : s.chan? s.dch = some ch) :
    ∃ t, execStepDecode s = .next t := by
  rcases Nat.lt_or_ge s.dec.cur s.cfg.ncell with hcur | hcur
  · exact ⟨_, execStepDecode_next.2 ⟨hr, .inr ⟨hcur, ⟨ch, hc⟩, rfl⟩⟩⟩
  · exact ⟨_, execStepDecode_next.2 ⟨hr, .inl ⟨hcur, rfl⟩⟩⟩

/-- At the buffer end the step ends the frame (R173). -/
theorem execStepDecode_stop (h : execStepDecode s = .next t) (hcur : s.cfg.ncell ≤ s.dec.cur) : t.dec.stop ≠ .none := by
  obtain ⟨_, ⟨_, rfl⟩ | ⟨hlt, _⟩⟩ := execStepDecode_next.1 h
  · exact nofun
  · exact absurd hlt (Nat.not_lt.2 hcur)

/-! ## A run of steps -/

theorem decodeRun_succ (hr : running s = true) (h : execStepDecode s = .next t) (n : Nat) :
    decodeRun (n + 1) s = decodeRun n t := by
  rw [decodeRun, if_pos hr, exec, h]

/-- A run goes no further once the frame has ended. -/
theorem decodeRun_stopped (hs : s.dec.stop ≠ .none) (n : Nat) : decodeRun n s = .next s := by
  cases n with
  | zero => rfl
  | succ n => exact if_neg fun hr => hs ((running_iff s).1 hr).2

/-- With `n` cells left at most, `n + 1` steps end the frame. -/
theorem decodeRun_ends (n : Nat) (hr : running s = true) (hc : s.chan? s.dch = some ch)
    (hn : s.cfg.ncell ≤ s.dec.cur + n) : ∃ t, decodeRun (n + 1) s = .next t ∧ t.dec.stop ≠ .none := by
  induction n generalizing s with
  | zero =>
    obtain ⟨t, h⟩ := execStepDecode_exists hr hc
    exact ⟨t, decodeRun_succ hr h 0, execStepDecode_stop h hn⟩
  | succ n ih =>
    obtain ⟨t, h⟩ := execStepDecode_exists hr hc
    rw [decodeRun_succ hr h]
    by_cases hs : t.dec.stop = .none
    · have hrest := (execStepDecode_writes h).frame.rest
      have hb : t.bstate = .decode := by rw [hrest]; exact ((running_iff s).1 hr).1
      have hct : t.chan? t.dch = some ch := by rw [hrest]; exact hc
      have hcfg : t.cfg = s.cfg := by rw [hrest]
      have hcur : s.dec.cur + 1 ≤ t.dec.cur := (execStepDecode_pastCell h).resolve_left (· hs)
      exact ih ((running_iff t).2 ⟨hb, hs⟩) hct (by rw [hcfg]; omega)
    · exact ⟨t, decodeRun_stopped hs _, hs⟩

/-- Settles O18: each step makes progress, so the NCELL cells ahead of the cursor bound the run. -/
theorem frameIsBounded : Obligations.FrameIsBounded := by
  intro s ch hb hs hc
  have hr : running s = true := (running_iff s).2 ⟨hb, hs⟩
  obtain ⟨t, h⟩ := execStepDecode_exists hr hc
  exact ⟨⟨t, h, execStepDecode_pastCell h⟩, decodeRun_ends _ hr hc (Nat.le_add_left _ _)⟩

end Sys2Proof.Machine
end

section
/-!
What a decoder step reads (R199): two states with the same registers, cells and header byte take the same step.
-/

namespace Sys2Proof.Machine

variable {s u t s' u' t' v : State}

/-- The states agree on all that a decoder step may read (R199). -/
structure SameView (s u : State) : Prop where
  cfg : s.cfg = u.cfg
  dec : s.dec = u.dec
  dch : s.dch = u.dch
  cells : ∀ j < s.cfg.ncell, cellRead s s.dch j = cellRead u u.dch j
  header : headerByte s = headerByte u

/-- From states `s` and `u` two steps go to the same decoder registers, and each writes and emits the same byte or none. -/
inductive SameWrites (s u : State) : State → State → Prop where
  | registers {d e : Decoder} (hd : d = e) : SameWrites s u { s with dec := d } { u with dec := e }
  | byte {d e : Decoder} {a b : Byte} (hd : d = e) (hb : a = b) :
      SameWrites s u { s with dec := d, fb := s.fb.write s.dec.len a, sink := s.sink ++ [.byte s.dch a] }
        { u with dec := e, fb := u.fb.write u.dec.len b, sink := u.sink ++ [.byte u.dch b] }

/-- Setting the same decoder registers in both keeps their views the same. -/
theorem SameView.setDec (h : SameView s u) (hs : s' = { s with dec := s'.dec }) (hu : u' = { u with dec := u'.dec })
    (hd : s'.dec = u'.dec) : SameView s' u' := by
  rw [hs, hu, hd]
  exact ⟨h.cfg, rfl, h.dch, h.cells, h.header⟩

/-- Decoder registers set first, `LEN` excepted, add nothing to what is written. -/
theorem SameWrites.after (hs : s' = { s with dec := s'.dec }) (hu : u' = { u with dec := u'.dec })
    (hls : s'.dec.len = s.dec.len) (hlu : u'.dec.len = u.dec.len) (h : SameWrites s' u' t v) : SameWrites s u t v := by
  cases h with
  | registers hd => rw [hs, hu]; exact .registers hd
  | byte hd hb => rw [hls, hlu, hs, hu]; exact .byte hd hb

/-! ## The sub-steps -/

/-- S3 on the decoder registers (R175-R177). -/
theorem resolveHeader_dec_eq (s : State) :
    (resolveHeader s).dec =
      if s.dec.skipk = .pending ∧ s.dec.nb = 8 then
        if tableRead s.cfg (headerByte s) = 0 then { s.dec with skipk := .unresolved }
        else { s.dec with skipk := .resolved, skipidx := tableSkipIndex (tableRead s.cfg (headerByte s)) }
      else s.dec := by
  have hdue : headerDue s = true ↔ s.dec.skipk = .pending ∧ s.dec.nb = 8 := by simp [headerDue]
  simp only [resolveHeader, hdue, applyEntry, apply_ite State.dec, leaveUnresolved_dec, setBoundary_dec]

theorem SameView.resolveHeader (h : SameView s u) : SameView (resolveHeader s) (resolveHeader u) :=
  h.setDec (resolveHeader_eq s) (resolveHeader_eq u) <| by
    rw [resolveHeader_dec_eq, resolveHeader_dec_eq, h.cfg, h.dec, h.header]

theorem SameView.noteAnomaly (h : SameView s u) (l hi : Nat) : SameView (noteAnomaly l hi s) (noteAnomaly l hi u) :=
  h.setDec (noteAnomaly_eq l hi s) (noteAnomaly_eq l hi u) <| by
    rw [noteAnomaly_dec, noteAnomaly_dec, h.cfg, h.dec]

theorem SameView.atTurnaround (h : SameView s u) : atTurnaround s = atTurnaround u := by
  rw [Machine.atTurnaround, Machine.atTurnaround, h.dec]

/-- The cell after the turnaround is read within the buffer only (R184). -/
theorem SameView.passTurnaround (h : SameView s u) : SameView (passTurnaround s) (passTurnaround u) := by
  refine h.setDec (passTurnaround_eq s) (passTurnaround_eq u) ?_
  rw [passTurnaround_dec, passTurnaround_dec u, passTurnaround_stop, passTurnaround_stop, ← h.cfg, ← h.dec]
  by_cases hend : s.dec.cur + 1 ≥ s.cfg.ncell
  · rw [if_pos hend, if_pos hend]
  · rw [if_neg hend, if_neg hend, h.cells _ (Nat.lt_of_not_le hend)]

theorem SameView.consumeBit (h : SameView s u) (bit : Bool) : SameWrites s u (consumeBit bit s) (consumeBit bit u) := by
  have hcap : s.dec.nb = 8 * s.cfg.nbyte ↔ u.dec.nb = 8 * u.cfg.nbyte := by rw [h.dec, h.cfg]
  have hnb : s.dec.nb = u.dec.nb := by rw [h.dec]
  rcases consumeBit_cases bit s with ⟨hn, e⟩ | ⟨hn, hb, e⟩ | ⟨hn, hb, e⟩ <;> rw [e, consumeBit_eq bit u]
  · rw [if_pos (hcap.1 hn)]
    exact .registers (by rw [h.dec])
  · rw [if_neg (mt hcap.2 hn), if_neg (hnb ▸ hb)]
    exact .registers (by rw [h.dec])
  · rw [if_neg (mt hcap.2 hn), if_pos (hnb ▸ hb)]
    exact .byte (by rw [h.dec]) (by rw [h.dec])

/-- S3 to S5 set the same registers in both states, and S6 to S8 use the same cell. -/
theorem SameView.runCell (h : SameView s u) (l hi : Nat) (bit : Bool) :
    SameWrites s u (runCell l hi bit s) (runCell l hi bit u) := by
  have hn := h.resolveHeader.noteAnomaly l hi
  have early (s : State) : Machine.noteAnomaly l hi (Machine.resolveHeader s) =
      { s with dec := (Machine.noteAnomaly l hi (Machine.resolveHeader s)).dec } := by
    rw [noteAnomaly_eq, resolveHeader_eq]
  refine .after (early s) (early u) (by simp) (by simp) ?_
  unfold Machine.runCell
  dsimp only
  rw [← hn.atTurnaround]
  generalize Machine.noteAnomaly l hi (Machine.resolveHeader s) = s' at *
  generalize Machine.noteAnomaly l hi (Machine.resolveHeader u) = u' at *
  have hp := hn.passTurnaround
  split
  · rw [← hp.dec, ← hp.cfg]
    split
    · next hstop =>
      rw [hp.cells _ (passTurnaround_cursor hstop)]
      exact .after (passTurnaround_eq s') (passTurnaround_eq u') (passTurnaround_len s') (passTurnaround_len u')
        (hp.consumeBit _)
    · rw [passTurnaround_eq s', passTurnaround_eq u']
      exact .registers hp.dec
  · exact hn.consumeBit bit

/-! ## The step -/

/-- The step on the same view ends both frames, or runs the same cell (R172-R174). -/
theorem SameView.execStepDecode (h : SameView s u) (hb : s.bstate = u.bstate)
    (hc : (s.chan? s.dch).isSome = (u.chan? u.dch).isSome) (hx : execStepDecode s = .next t) :
    ∃ v, execStepDecode u = .next v ∧ SameWrites s u t v := by
  obtain ⟨hr, hcase⟩ := execStepDecode_next.1 hx
  have hru : running u = true := by rwa [running, ← hb, ← h.dec]
  rcases hcase with ⟨hend, rfl⟩ | ⟨hcur, ⟨ch, hch⟩, rfl⟩
  · refine ⟨_, execStepDecode_next.2 ⟨hru, .inl ⟨h.cfg ▸ h.dec ▸ hend, rfl⟩⟩, ?_⟩
    exact .registers (by rw [h.dec])
  · have hchu : ∃ ch, u.chan? u.dch = some ch := by rw [← Option.isSome_iff_exists, ← hc, hch]; rfl
    refine ⟨_, execStepDecode_next.2 ⟨hru, .inr ⟨h.cfg ▸ h.dec ▸ hcur, hchu, rfl⟩⟩, ?_⟩
    dsimp only
    rw [← h.dec, ← h.cfg, ← h.cells _ hcur]
    split
    · exact .registers (by rw [h.dec])
    · exact h.runCell _ _ _

/-- Settles O17: the states have the same view, so the step writes the same in both. -/
theorem decodeStepReadsOnlyItsOwn : Obligations.DecodeStepReadsOnlyItsOwn := by
  intro s u t hcfg hdec hb hdch hc hcells hheader hx
  have h : SameView s u := ⟨hcfg, hdec, hdch, hcells, hheader⟩
  obtain ⟨v, hv, hw⟩ := h.execStepDecode hb hc hx
  refine ⟨v, hv, ?_⟩
  cases hw with
  | registers hd => exact ⟨hd.symm, ⟨[], by simp⟩, .inl ⟨rfl, rfl⟩⟩
  | byte hd hb =>
    subst hb
    exact ⟨hd.symm, ⟨_, rfl, by rw [hdch]⟩, .inr ⟨_, rfl, by rw [hdec]⟩⟩

end Sys2Proof.Machine
end

section
/-!
The SUMMARY of a frame (R122, R232): its bytes are those of the frame's BYTE records, each written in the frame buffer (R53,
R241, R303).
-/

namespace Sys2Proof.Machine

variable {s : State}

/-- A byte of the frame is the one written at its index, never an unspecified one (R53, R303). -/
theorem State.DecoderOk.read_frame (h : s.DecoderOk) {j : Nat} (hj : j < s.dec.len) :
    s.fb.read j = some (frameRead s j) := by
  obtain ⟨v, hv⟩ := Option.isSome_iff_exists.1 (h.written j hj)
  rw [frameRead, hv, Option.getD_some]

theorem frameBytes_getElem? {j : Nat} (hj : j < s.dec.len) : (frameBytes s)[j]? = some (frameRead s j) := by
  simp [frameBytes, hj]

/-- Settles O60: the invariant has the frame's BYTE records at the sink's end and their bytes in the frame buffer, and the
SUMMARY takes the same bytes. -/
theorem summaryReportsWrittenBytes : Obligations.SummaryReportsWrittenBytes := by
  intro s t ch hinv hb _ h
  obtain ⟨_, ch', _, rfl⟩ := execStepFinish_next.1 h
  obtain ⟨before, hsink⟩ := hinv.reported (.inr hb)
  have hlen := hinv.decoder.len
  have hcap := hinv.decoder.capacity
  refine ⟨before, summaryOf s ch'.ovr, ?_, rfl, ?_, hlen, ?_, fun j hj => ?_⟩
  · rw [hsink, summaryOf, frameBytes, List.map_map]; rfl
  · simp [summaryOf, frameBytes]
  · show s.dec.len ≤ s.cfg.nbyte; omega
  · exact (hinv.decoder.read_frame hj).trans (frameBytes_getElem? hj).symm

end Sys2Proof.Machine
end

section
/-!
The inputs of the capture sources and the clock (42_frame_sync.md, R221-R225, R238, R240): what a frame start, a cell
write, a capture-done and a capture error do to the channel they name and to its status bit (R71, R86), and what a tick
does to every channel.
-/

namespace Sys2Proof.Machine

variable {s t : State} {c : Nat} {ch ch' : Channel}

/-! ## Pending bits -/

theorem testBit_setBit_beq (w j b : Nat) : (setBit w j).testBit b = (w.testBit b || b == j) := by
  rw [testBit_setBit, Bool.beq_eq_decide_eq, decide_eq_decide.2 eq_comm]

theorem testBit_clearBit_bne (w j b : Nat) : (clearBit w j).testBit b = (w.testBit b && b != j) := by
  rw [testBit_clearBit, bne, Bool.beq_eq_decide_eq, ← decide_not, decide_eq_decide.2 ne_comm]

/-! ## One channel -/

/-- An update of a channel that exists changes that channel, and no other register. -/
theorem modifyChan_eq (hc : s.chan? c = some ch) (f : Channel → Channel) :
    s.modifyChan c f = { s with channels := s.channels.set c (f ch) } := by
  rw [State.modifyChan, modify_eq_set hc]

/-- Settles O28: each capture state selects one of the three rows of a frame start. -/
theorem frameStartByCaptureState : Obligations.FrameStartByCaptureState := by
  intro c s ch hc
  refine ⟨fun hs => ?_, fun hs => ?_, fun hs => ?_⟩
  · exact execInFrameStart_next.2 ⟨ch, hc, hs, by rw [modifyChan_eq hc]⟩
  · exact execInFrameStartCapturing_next.2 ⟨ch, hc, hs, rfl⟩
  · exact execInFrameStartOverrun_next.2 ⟨ch, hc, hs, by rw [countOverrun, modifyChan_eq hc]⟩

/-! ## Cells -/

theorem cellRead_of_chan (hc : s.chan? c = some ch) (j : Nat) : cellRead s c j = cbRead s.cfg ch c j := by
  rw [cellRead, hc]

/-- A decoder read depends on the configuration and on the channel alone. -/
theorem cellRead_congr (hcfg : t.cfg = s.cfg) (hc : t.chan? c = s.chan? c) (j : Nat) : cellRead t c j = cellRead s c j := by
  rw [cellRead, cellRead, hc, hcfg]

theorem cbRead_of_fresh {cfg : Config} {j : Nat} {v : Word} (h : ch.cb.read j = some { word := v, fresh := true }) :
    cbRead cfg ch c j = v := by
  simp [cbRead, h]

/-- What a buffer gives at an index depends on the store there and on the draw alone. -/
theorem cbRead_congr (cfg : Config) {j : Nat} (hr : ch'.cb.read j = ch.cb.read j) (hd : ch'.draw = ch.draw) :
    cbRead cfg ch' c j = cbRead cfg ch c j := by
  rw [cbRead, cbRead, hr, hd]

theorem chan?_cellWrite_same (hc : s.chan? c = some ch) (i : Nat) (v : Word) :
    (cellWrite c i v s).chan? c =
      some { ch with cb := ch.cb.write i { word := v, fresh := true }, wpos := i + 1 } := by
  rw [cellWrite, chan?_modifyChan_same, hc, Option.map_some]

/-- A written cell reads as the word written (R71, R223). -/
theorem cellRead_cellWrite_same (hc : s.chan? c = some ch) (i : Nat) (v : Word) :
    cellRead (cellWrite c i v s) c i = v := by
  rw [cellRead_of_chan (chan?_cellWrite_same hc i v)]
  exact cbRead_of_fresh (Memory.read_write_same _ _ _)

/-- A cell write leaves every other cell, of its own channel and of the others. -/
theorem cellRead_cellWrite_other (hc : s.chan? c = some ch) {i d j : Nat} (hne : ¬(d = c ∧ j = i)) (v : Word) :
    cellRead (cellWrite c i v s) d j = cellRead s d j := by
  by_cases hd : d = c
  · subst hd
    have hj : j ≠ i := fun hj => hne ⟨rfl, hj⟩
    rw [cellRead_of_chan (chan?_cellWrite_same hc i v), cellRead_of_chan hc]
    exact cbRead_congr _ (Memory.read_write_other _ _ _ _ hj) rfl
  · exact cellRead_congr (s := s) (t := cellWrite c i v s) rfl (chan?_modifyChan_other s (Ne.symm hd) _) j

/-- Settles O29: the source keeps its duties, so the cell is written, and the write is read back at its cell alone. -/
theorem cellWriteIsRead : Obligations.CellWriteIsRead := by
  intro c i v s ch hc hown hs hrun hpos hn
  exact ⟨cellWrite c i v s, execInCellWrite_next.2 ⟨ch, hc, ⟨hown, hs, hrun, hpos, hn⟩, rfl⟩,
    cellRead_cellWrite_same hc i v, fun d j hne => cellRead_cellWrite_other hc hne v, _, modifyChan_eq hc _⟩

/-! ## The end of a capture -/

/-- A completed capture stays COMPLETE until the finish step of its channel re-arms it, or reset (R224, R232, R300). -/
theorem exec_complete {i : Instr} (h : exec i s = .next t) (hc : s.chan? c = some ch) (hc' : t.chan? c = some ch')
    (hs : ch.chstate = .complete) :
    ch'.chstate = .complete ∨ (s.dch = c ∧ (i = .stepFinish ∨ ∃ r, i = .sinkSummary r)) ∨ i = .stepReset := by
  cases exec_channelEffect h hc hc' with
  | reset hi => exact .inr (.inr hi)
  | frameStarted _ ha => cases ha.symm.trans hs
  | captured => exact .inl rfl
  | handedBack _ hd hi => exact .inr (.inl ⟨hd, hi⟩)
  | _ => exact .inl hs

/-- Settles O31: a capture-done of a capturing channel sets its capture state and the one status bit; a cell write needs a
capturing channel, and no other update of a channel leaves COMPLETE. -/
theorem captureDoneSetsPending : Obligations.CaptureDoneSetsPending := by
  refine ⟨fun c s ch hc hs => ?_, fun c s ch hc hs => ⟨fun j v => ?_, fun i t h => ?_⟩⟩
  · refine ⟨_, execInCaptureDone_next.2 ⟨ch, hc, hs, rfl⟩, ?_, testBit_setBit_beq _ _⟩
    rw [modifyChan_eq hc]
    rfl
  · exact execInCellWrite_refused hc (fun ⟨_, hcap, _⟩ => by cases hs.symm.trans hcap) v
  · obtain ⟨ch', hc'⟩ := exec_chan_exists h hc
    exact (exec_complete h hc hc' hs).imp_left fun hs' => ⟨ch', hc', hs'⟩

/-- Settles O32: the latch decides whether the error's bit is set, and nothing else is written. -/
theorem captureErrorSetsPendingUnlessSuppressed : Obligations.CaptureErrorSetsPendingUnlessSuppressed := by
  intro c s ch hc
  refine ⟨_, execInCaptureError_next.2 ⟨ch, hc, rfl⟩, ?_⟩
  cases ch.errsup with
  | true => exact ⟨rfl, fun b => by simp⟩
  | false => exact ⟨rfl, testBit_setBit_beq _ _⟩

/-! ## The clock -/

/-- Settles O42: the tick maps every channel and writes nothing else. -/
theorem tickCountsEveryGap : Obligations.TickCountsEveryGap := fun s =>
  ⟨tickGaps s, rfl, rfl, fun _ => List.getElem?_map⟩

end Sys2Proof.Machine
end

section
/-!
The dispatcher's steps (42_frame_sync.md, R226-R233): the snapshot and its end, the two handlers as operations and inside a
select step, and the end of a frame (R171, R122, R130, R237).
-/

namespace Sys2Proof.Machine

variable {s : State} {c : Nat} {ch : Channel}

/-! ## The invocation -/

/-- Settles O33: IDLE with a bit pending is the select condition of the entry step. -/
theorem dispatchEntryTakesSnapshot : Obligations.DispatchEntryTakesSnapshot := fun _ hb hp =>
  execStepDispatchEntry_next.2 ⟨⟨hb, hp⟩, rfl⟩

/-- Settles O34: an empty snapshot has no bit to pick, so the select step ends the invocation. -/
theorem exhaustedSnapshotEndsInvocation : Obligations.ExhaustedSnapshotEndsInvocation := by
  intro b s hb hw
  have hnone : pickBit s.work b (2 * s.cfg.nch) = none := by rw [hw, pickBit_zero]
  exact execStepSelect_next.2 ⟨hb, .inl ⟨hnone, rfl⟩⟩

/-- Settles O27: DECODE with the frame stopped is the select condition of the end-of-decode step. -/
theorem decodeDoneMovesToFinish : Obligations.DecodeDoneMovesToFinish := fun _ hb hs =>
  execStepDecodeDone_next.2 ⟨⟨hb, hs⟩, rfl⟩

/-! ## The handlers -/

/-- Two updates of a channel that exists, one after the other, set its position once. -/
theorem modify_modify_eq_set (hc : s.chan? c = some ch) (f g : Channel → Channel) :
    (s.channels.modify c f).modify c g = s.channels.set c (g (f ch)) := by
  rw [List.modify_modify_eq, modify_eq_set hc, Function.comp_apply]

/-- The capture-complete entry of a channel that exists, register by register (R229, R171). -/
theorem completeEntry_eq (hc : s.chan? c = some ch) (gap : Nat) :
    completeEntry c gap s = { s with
      commands := s.commands ++ [{ op := .disableCapture, ch := c }]
      channels := s.channels.set c { ch with stopped := true, owner := .sw, gap := 0 }
      gaprec := gap
      dch := c
      dec := Decoder.start
      bstate := .decode } := by
  have hch : (completeEntry c gap s).channels =
      s.channels.set c { ch with stopped := true, owner := .sw, gap := 0 } := modify_modify_eq_set hc _ _
  rw [← hch]; rfl

theorem set_chan_self (hc : s.chan? c = some ch) : s.channels.set c ch = s.channels := by
  obtain ⟨hlt, rfl⟩ := List.getElem?_eq_some_iff.1 hc
  exact List.set_getElem_self hlt

theorem latchError_eq (hc : s.chan? c = some ch) :
    latchError c s = { s with
      channels := s.channels.set c { ch with errsup := true }
      sink := s.sink ++ [.error c] } := by
  rw [latchError, modifyChan_eq hc, emit]

/-- The error handler leaves the latch set, and reports where it was open (R233). -/
theorem handleError_eq (hc : s.chan? c = some ch) :
    handleError c ch.errsup s = { s with
      channels := s.channels.set c { ch with errsup := true }
      sink := if ch.errsup then s.sink else s.sink ++ [.error c] } := by
  cases he : ch.errsup with
  | true =>
    have hself : s.channels.set c { ch with errsup := true } = s.channels := by rw [← he]; exact set_chan_self hc
    rw [hself]; rfl
  | false => exact latchError_eq hc

/-- Settles O38: SELECT is the event's select condition, and its handler is the capture-complete entry. -/
theorem captureCompleteEntry : Obligations.CaptureCompleteEntry := fun _ _ ch hb hc =>
  execEvtCaptureComplete_next.2 ⟨hb, ch, hc, (completeEntry_eq hc ch.gap).symm⟩

/-- Settles O39: a set latch makes the handler return at once; an open one is set with one record, which is what the record's
row does too. -/
theorem errorHandlerReportsOnce : Obligations.ErrorHandlerReportsOnce := by
  intro c s ch hb hc
  refine ⟨fun he => ?_, fun he => ⟨?_, ?_⟩⟩
  · exact execEvtCaptureError_next.2 ⟨hb, ch, hc, by rw [he]; rfl⟩
  · exact execEvtCaptureError_next.2 ⟨hb, ch, hc, by rw [he]; exact (latchError_eq hc).symm⟩
  · exact execSinkError_next.2 ⟨hb, ch, hc, he, (latchError_eq hc).symm⟩

/-! ## The select step on a named bit -/

/-- A select step clears the bit that its order names, where it is set, and handles that bit's event (R227). -/
theorem execStepSelect_of_testBit {j : Nat} (hb : s.bstate = .select) (hj : j < 2 * s.cfg.nch)
    (hw : s.work.testBit j = true) (hc : s.chan? (bitChannel j) = some ch) :
    execStepSelect j s = .next
      (if bitIsError j then handleError (bitChannel j) ch.errsup (clearPending j s)
        else completeEntry (bitChannel j) ch.gap (clearPending j s)) :=
  execStepSelect_next.2 ⟨hb, .inr ⟨j, ch, pickBit_self hj hw, hc, rfl⟩⟩

theorem bitChannel_ccBit (c : Nat) : bitChannel (ccBit c) = c := by simp only [bitChannel, ccBit]; omega

theorem bitChannel_errBit (c : Nat) : bitChannel (errBit c) = c := by simp only [bitChannel, errBit]; omega

theorem bitIsError_ccBit (c : Nat) : bitIsError (ccBit c) = false := by
  rw [Bool.eq_false_iff, ne_eq, bitIsError_iff, ccBit]; omega

theorem bitIsError_errBit (c : Nat) : bitIsError (errBit c) = true := by rw [bitIsError_iff, errBit]; omega

/-- A select step on `CC[c]` runs the capture-complete entry of channel `c` (R227, R229). -/
theorem execStepSelect_ccBit (hb : s.bstate = .select) (hn : c < s.cfg.nch) (hc : s.chan? c = some ch)
    (hw : s.work.testBit (ccBit c) = true) :
    execStepSelect (ccBit c) s = .next (completeEntry c ch.gap (clearPending (ccBit c) s)) := by
  have hj : ccBit c < 2 * s.cfg.nch := by rw [ccBit]; omega
  rw [execStepSelect_of_testBit hb hj hw (by rwa [bitChannel_ccBit]), bitIsError_ccBit, bitChannel_ccBit]
  rfl

/-- A select step on `ERR[c]` runs the error handler of channel `c` (R227, R233). -/
theorem execStepSelect_errBit (hb : s.bstate = .select) (hn : c < s.cfg.nch) (hc : s.chan? c = some ch)
    (hw : s.work.testBit (errBit c) = true) :
    execStepSelect (errBit c) s = .next (handleError c ch.errsup (clearPending (errBit c) s)) := by
  have hj : errBit c < 2 * s.cfg.nch := by rw [errBit]; omega
  rw [execStepSelect_of_testBit hb hj hw (by rwa [bitChannel_errBit]), bitIsError_errBit, bitChannel_errBit]
  rfl

/-- Settles O35: the bit named is the bit picked, and its handler starts the frame once the bit is cleared. -/
theorem selectStartsFrame : Obligations.SelectStartsFrame := by
  intro c s ch hb hn hc hw
  have hcleared : (clearPending (ccBit c) s).chan? c = some ch := hc
  exact ⟨_, execStepSelect_ccBit hb hn hc hw, testBit_clearBit_bne _ _, testBit_clearBit_bne _ _,
    completeEntry_eq hcleared ch.gap⟩

/-- Settles O36: the bit named is the bit picked, and its handler reports the error once the bit is cleared. -/
theorem selectReportsError : Obligations.SelectReportsError := by
  intro c s ch hb hn hc hw
  have hcleared : (clearPending (errBit c) s).chan? c = some ch := hc
  refine ⟨_, execStepSelect_errBit hb hn hc hw, ?_⟩
  rw [handleError_eq hcleared]
  exact ⟨testBit_clearBit_bne _ _, testBit_clearBit_bne _ _, rfl⟩

/-! ## The finish step -/

/-- The end of a frame whose channel exists, register by register (R232, R237). -/
theorem finishFrame_eq (hc : s.chan? s.dch = some ch) (r : Summary) :
    finishFrame r s = { s with
      sink := s.sink ++ [.summary r]
      commands := s.commands ++ [{ op := .resetAndRearm, ch := s.dch }]
      channels := s.channels.set s.dch { obeyCommand .resetAndRearm ch with owner := .hw, chstate := .armed }
      bstate := .select } := by
  have hch : (finishFrame r s).channels =
      s.channels.set s.dch { obeyCommand .resetAndRearm ch with owner := .hw, chstate := .armed } :=
    modify_modify_eq_set hc _ _
  rw [← hch]; rfl

/-- Settles O40: the finish step and the SUMMARY's row both emit the summary taken from the state and end the frame. -/
theorem finishReportsAndHandsBack : Obligations.FinishReportsAndHandsBack := by
  intro s ch hb hc
  exact ⟨finishFrame (summaryOf s ch.ovr) s, execStepFinish_next.2 ⟨hb, ch, hc, rfl⟩,
    execSinkSummary_next.2 ⟨hb, ch, hc, rfl, rfl⟩, finishFrame_eq hc _⟩

end Sys2Proof.Machine
end

section
/-!
Two rules over every instruction (42_frame_sync.md): who writes a capture buffer (R230, R87), and what an instruction does to
the snapshot (R228, R273).
-/

namespace Sys2Proof.Machine

variable {s t : State} {i : Instr}

/-! ## The capture buffers -/

/-- Settles O52: a channel's update writes no cell but in a cell write, re-arming keeps the words, and reset is excepted. -/
theorem captureBufferWrittenOnlyByItsOwner : Obligations.CaptureBufferWrittenOnlyByItsOwner := by
  intro i s t c ch ch' hc hc' h
  cases exec_channelEffect h hc hc' with
  | reset hi => exact .inr (.inr hi)
  | written j v hi hs =>
    subst hi
    obtain ⟨ch₀, hc₀, ⟨hown, _⟩, _⟩ := execInCellWrite_next.1 h
    cases hc.symm.trans hc₀
    exact .inr (.inl ⟨j, v, rfl, hown, hs⟩)
  | rearmed => exact .inl (storedWord_obeyCommand .resetAndRearm ch)
  | handedBack => exact .inl (storedWord_obeyCommand .resetAndRearm ch)
  | _ => exact .inl fun _ => rfl

/-! ## The snapshot -/

@[simp] theorem handleError_work (c : Nat) (errsup : Bool) (s : State) : (handleError c errsup s).work = s.work := by
  unfold handleError; split <;> rfl

/-- A select step keeps the snapshot, or clears the bit it picks (R227). -/
theorem execStepSelect_work {b : Nat} (h : execStepSelect b s = .next t) :
    t.work = s.work ∨ ∃ j, t.work = clearBit s.work j := by
  obtain ⟨_, ⟨_, rfl⟩ | ⟨j, ch, _, _, rfl⟩⟩ := execStepSelect_next.1 h
  · exact .inl rfl
  · exact .inr ⟨j, by split <;> simp⟩

theorem execStepDecode_work (h : execStepDecode s = .next t) : t.work = s.work := by
  obtain ⟨_, ⟨_, rfl⟩ | ⟨_, _, rfl⟩⟩ := execStepDecode_next.1 h
  · rfl
  · dsimp only; split <;> simp

/-- Every way in which an instruction other than a dispatch entry can change the snapshot: a select step clears a bit, and
reset clears it whole. -/
theorem exec_work (h : exec i s = .next t) (he : i ≠ .stepDispatchEntry) :
    t.work = s.work ∨ (∃ j, t.work = clearBit s.work j) ∨ t.work = 0 := by
  cases i with
  | stepDispatchEntry => exact absurd rfl he
  | stepSelect b => exact (execStepSelect_work h).imp_right .inl
  | stepReset => obtain rfl := execStepReset_next.1 h; exact .inr (.inr rfl)
  | stepDecode => exact .inl (execStepDecode_work h)
  | cellSentinel l => obtain ⟨_, rfl⟩ := (execCellSentinel_next l).1 h; exact .inl rfl
  | cellData0 l hi => obtain ⟨_, _, rfl⟩ := execCellData0_next.1 h; exact .inl (by simp)
  | cellData1 l hi => obtain ⟨_, _, rfl⟩ := execCellData1_next.1 h; exact .inl (by simp)
  | cellAnomalous l hi => obtain ⟨_, rfl⟩ := execCellAnomalous_next.1 h; exact .inl (by simp)
  | cellInwindow l hi => obtain ⟨_, rfl⟩ := execCellInwindow_next.1 h; exact .inl rfl
  | cellTurnaround l hi => obtain ⟨_, _, rfl⟩ := (execCellTurnaround_next l).1 h; exact .inl (by simp)
  | headerKnown hb => obtain ⟨_, rfl⟩ := execHeaderKnown_next.1 h; exact .inl rfl
  | headerDynamic hb => obtain ⟨_, rfl⟩ := execHeaderDynamic_next.1 h; exact .inl rfl
  | header01 => obtain ⟨_, rfl⟩ := execHeader01_next.1 h; exact .inl rfl
  | header09 => obtain ⟨_, rfl⟩ := execHeader09_next.1 h; exact .inl rfl
  | evtCaptureComplete c => obtain ⟨_, _, _, rfl⟩ := execEvtCaptureComplete_next.1 h; exact .inl rfl
  | evtCaptureError c => obtain ⟨_, _, _, rfl⟩ := execEvtCaptureError_next.1 h; exact .inl (by simp)
  | cmdDisableCapture c => obtain ⟨_, rfl⟩ := execCmdDisableCapture_next.1 h; exact .inl rfl
  | cmdResetAndRearm c => obtain ⟨_, rfl⟩ := execCmdResetAndRearm_next.1 h; exact .inl rfl
  | sinkByte c v => obtain ⟨_, rfl⟩ := execSinkByte_next.1 h; exact .inl rfl
  | sinkSummary r => obtain ⟨_, _, _, _, rfl⟩ := execSinkSummary_next.1 h; exact .inl rfl
  | sinkError c => obtain ⟨_, _, _, _, rfl⟩ := execSinkError_next.1 h; exact .inl rfl
  | inFrameStart c => obtain ⟨_, _, _, rfl⟩ := execInFrameStart_next.1 h; exact .inl rfl
  | inFrameStartCapturing c => obtain ⟨_, _, _, rfl⟩ := execInFrameStartCapturing_next.1 h; exact .inl rfl
  | inFrameStartOverrun c => obtain ⟨_, _, _, rfl⟩ := execInFrameStartOverrun_next.1 h; exact .inl rfl
  | inCellWrite c j v => obtain ⟨_, _, _, rfl⟩ := execInCellWrite_next.1 h; exact .inl rfl
  | inCaptureDone c => obtain ⟨_, _, _, rfl⟩ := execInCaptureDone_next.1 h; exact .inl rfl
  | inCaptureError c => obtain ⟨_, _, rfl⟩ := execInCaptureError_next.1 h; exact .inl (by split <;> rfl)
  | stepDecodeDone => obtain ⟨_, rfl⟩ := execStepDecodeDone_next.1 h; exact .inl rfl
  | stepFinish => obtain ⟨_, _, _, rfl⟩ := execStepFinish_next.1 h; exact .inl rfl
  | stepClockTick => obtain rfl := execStepClockTick_next.1 h; exact .inl rfl

/-- Settles O58: a snapshot that is kept, has a bit cleared or is cleared whole holds no new bit. -/
theorem snapshotOnlyShrinks : Obligations.SnapshotOnlyShrinks := by
  intro i s t h he b hb
  rcases exec_work h he with hw | ⟨j, hw⟩ | hw <;> rw [hw] at hb
  · exact hb
  · exact testBit_of_clearBit hb
  · simp at hb

end Sys2Proof.Machine
end

section
/-!
What stops the machine and what cannot (R227, R260, R270, R279, R86): every dispatch order has a select step, the block's own
turn always goes on, and each fault and refusal of an instruction names its cause.
-/

namespace Sys2Proof.Machine

variable {s : State} {i : Instr} {c : Nat} {x : Result} {k : Channel → Result} {p : Prop}

/-! ## The select step under any dispatch order -/

theorem State.RegistersFit.chan_exists (h : s.RegistersFit) (hc : c < s.cfg.nch) : ∃ ch, s.chan? c = some ch :=
  ⟨_, List.getElem?_eq_getElem (h.channels ▸ hc)⟩

@[simp] theorem handleError_status (c : Nat) (errsup : Bool) (s : State) :
    (handleError c errsup s).status = s.status := by
  unfold handleError; split <;> rfl

/-- A select step with a bit pending picks one, of a channel that exists, and clears it in both words (R227). -/
theorem execStepSelect_picks (h : s.RegistersFit) (hb : s.bstate = .select) (hw : s.work ≠ 0) (b : Nat) :
    ∃ j t, pickBit s.work b (2 * s.cfg.nch) = some j ∧ execStepSelect b s = .next t ∧
      t.work = clearBit s.work j ∧ t.status = clearBit s.status j := by
  obtain ⟨j, hp⟩ : ∃ j, pickBit s.work b (2 * s.cfg.nch) = some j :=
    Option.ne_none_iff_exists'.1 (mt (eq_zero_of_pickBit_none h.work) hw)
  have hlt : bitChannel j < s.cfg.nch := Nat.div_lt_of_lt_mul (pickBit_some hp).2
  obtain ⟨ch, hc⟩ := h.chan_exists hlt
  refine ⟨j, _, hp, execStepSelect_next.2 ⟨hb, .inr ⟨j, ch, hp, hc, rfl⟩⟩, ?_, ?_⟩
  · split <;> simp
  · split <;> simp

/-- Settles O37: the bit picked is set and is the one cleared, and a set bit that is named lies within the snapshot's width,
so it is picked. -/
theorem everyDispatchOrderIsAdmitted : Obligations.EveryDispatchOrderIsAdmitted := by
  intro b s hfit hb hw
  obtain ⟨j, t, hp, ht, hwork, hstatus⟩ := execStepSelect_picks hfit hb hw b
  refine ⟨j, t, (pickBit_some hp).1, ht, fun n => ?_, fun n => ?_, fun hset => ?_⟩
  · rw [hwork, testBit_clearBit_bne]
  · rw [hstatus, testBit_clearBit_bne]
  · have hle : 2 ^ b ≤ s.work := Nat.ge_two_pow_of_testBit hset
    have hlt : b < 2 * s.cfg.nch := (Nat.pow_lt_pow_iff_right one_lt_two).1 (hle.trans_lt hfit.work)
    exact Option.some.inj (hp.symm.trans (pickBit_self hlt hset))

/-! ## The block's own turn -/

/-- The step that the block's state enables answers a next state, whatever the dispatcher state (R260). -/
theorem exec_enabledStep (h : s.RegistersFit) {b : Nat} (he : enabledStep s b = some i) : ∃ t, exec i s = .next t := by
  obtain ⟨ch, hc⟩ := h.chan_exists h.dch
  cases hb : s.bstate with
  | idle =>
    rw [enabledStep_idle hb] at he
    split at he
    · cases he
    · next hs => cases he; exact ⟨_, dispatchEntryTakesSnapshot s hb hs⟩
  | select =>
    rw [enabledStep_select hb] at he
    cases he
    by_cases hw : s.work = 0
    · exact ⟨_, exhaustedSnapshotEndsInvocation _ s hb hw⟩
    · obtain ⟨_, t, _, ht, _⟩ := execStepSelect_picks h hb hw (b % (2 * s.cfg.nch))
      exact ⟨t, ht⟩
  | decode =>
    rw [enabledStep_decode hb] at he
    split at he
    · next hs => cases he; exact execStepDecode_exists ((running_iff s).2 ⟨hb, hs⟩) hc
    · next hs => cases he; exact ⟨_, decodeDoneMovesToFinish s hb hs⟩
  | finish =>
    rw [enabledStep_finish hb] at he
    cases he
    exact ⟨_, execStepFinish_next.2 ⟨hb, ch, hc, rfl⟩⟩

/-- The enabled step, or a held state where there is none, is a next state. -/
theorem ownTurn_next (h : s.RegistersFit) (held : State) (b : Nat) :
    ∃ t, (enabledStep s b).elim (.next held) (exec · s) = .next t := by
  cases he : enabledStep s b with
  | none => exact ⟨held, rfl⟩
  | some i => exact exec_enabledStep h he

/-- Settles O50: the block's turn executes the step its state enables, or holds the state where it enables none. -/
theorem blockNeverStops : Obligations.BlockNeverStops := by
  intro s h hturn
  rcases hturn with ha | ⟨b, rest, ha⟩
  · rw [step_no_turn ha]
    exact ownTurn_next (s := { s with choices := s.choices + 1 }) { h.registers with } s _
  · rw [step_pwd ha]
    exact ownTurn_next (s := { s with agenda := rest }) { h.registers with } _ b

/-! ## Every stop has its cause -/

/-- What an instruction may answer in a state: a next state, or a stop whose cause holds there. -/
inductive NamedAnswer (s : State) (i : Instr) : Result → Prop
  | next (t : State) : NamedAnswer s i (.next t)
  | noChannel {c : Nat} (h : s.chan? c = none) : NamedAnswer s i (.fault (.noSuchChannel c))
  | duty (h : BreaksDuty s i) : NamedAnswer s i (.refused .captureDuty)
  | notSelected (h : ¬Selects s i) : NamedAnswer s i (.refused .notSelected)

/-- The one place a fault comes from: a channel that does not exist. -/
theorem NamedAnswer.of_chan (h : ∀ ch, s.chan? c = some ch → NamedAnswer s i (k ch)) :
    NamedAnswer s i (withChan c s k) := by
  cases hc : s.chan? c with
  | none => rw [withChan, hc]; exact .noChannel hc
  | some ch => rw [withChan_some hc]; exact h ch hc

/-- A guard that the row's select condition implies refuses only where that condition fails. -/
theorem NamedAnswer.of_guard [Decidable p] (hp : Selects s i → p) (h : NamedAnswer s i x) :
    NamedAnswer s i (if p then x else .refused .notSelected) := by
  split
  · exact h
  · next hn => exact .notSelected (mt hp hn)

theorem execStepDecode_named (s : State) : NamedAnswer s .stepDecode (execStepDecode s) := by
  refine .of_guard (running_iff s).2 ?_
  split
  · exact .next _
  · refine .of_chan fun ch _ => ?_
    dsimp only
    split <;> exact .next _

theorem execStepSelect_named (b : Nat) (s : State) : NamedAnswer s (.stepSelect b) (execStepSelect b s) := by
  refine .of_guard beq_iff_eq.2 ?_
  split
  · exact .next _
  · refine .of_chan fun ch _ => ?_
    split <;> exact .next _

/-- A source that may not write would break one of its duties (R86, R130, R223, D29). -/
theorem execInCellWrite_named (c j : Nat) (v : Word) (s : State) :
    NamedAnswer s (.inCellWrite c j v) (execInCellWrite c j v s) := by
  refine .of_chan fun ch hc => ?_
  split
  · exact .next _
  · next hn =>
    refine .duty ⟨ch, hc, ?_⟩
    rw [mayWrite_iff] at hn
    cases ho : ch.owner with
    | sw => exact .inl rfl
    | hw => simp only [ho, true_and, not_and_or, Bool.not_eq_false, not_lt] at hn; exact .inr hn

theorem execInCaptureDone_named (c : Nat) (s : State) :
    NamedAnswer s (.inCaptureDone c) (execInCaptureDone c s) := by
  refine .of_chan fun ch hc => ?_
  split
  · exact .next _
  · next hn => exact .duty ⟨ch, hc, hn⟩

theorem execSinkError_named (c : Nat) (s : State) : NamedAnswer s (.sinkError c) (execSinkError c s) := by
  refine .of_guard (fun h => beq_iff_eq.2 h.1) (.of_chan fun ch hc => ?_)
  split
  · next he => exact .notSelected fun h => Bool.false_ne_true ((h.2 ch hc).symm.trans he)
  · exact .next _

/-- Every row's answer is a next state or a stop whose cause holds: its guard is its select condition. -/
theorem exec_namedAnswer (i : Instr) (s : State) : NamedAnswer s i (exec i s) := by
  cases i with
  | cellSentinel l => exact .of_guard cellSelected_iff.2 (.next _)
  | cellData0 l h =>
    refine .of_guard (fun ⟨ho, h1, hp⟩ => ?_) (.of_chan fun _ _ => .next _)
    exact Bool.and_eq_true_iff.2 ⟨cellSelected_iff.2 ho, beq_iff_eq.2 (cellClass_data0 h1 hp)⟩
  | cellData1 l h =>
    refine .of_guard (fun ⟨ho, hp⟩ => ?_) (.of_chan fun _ _ => .next _)
    exact Bool.and_eq_true_iff.2 ⟨cellSelected_iff.2 ho, beq_iff_eq.2 (cellClass_data1 hp)⟩
  | cellAnomalous l h =>
    refine .of_guard (fun ⟨ho, hz, hout⟩ => ?_) (.next _)
    simp [cellSelected_iff.2 ho, not_isSentinel hz, (isAnomalous_iff s.cfg l h).2 hout]
  | cellInwindow l h =>
    refine .of_guard (fun ⟨ho, hz, hin⟩ => ?_) (.next _)
    simp [cellSelected_iff.2 ho, not_isSentinel hz, (not_isAnomalous_iff s.cfg l h).2 hin]
  | cellTurnaround l h =>
    refine .of_guard (fun ⟨ho, hz, hk, hcur⟩ => ?_) (.of_chan fun _ _ => .next _)
    simp [cellSelected_iff.2 ho, not_isSentinel hz, atTurnaround, hk, hcur]
  | headerKnown hb =>
    refine .of_guard (fun ⟨ho, hk⟩ => ?_) (.next _)
    exact Bool.and_eq_true_iff.2 ⟨headerSelected_iff.2 ho, bne_iff_ne.2 hk⟩
  | headerDynamic hb =>
    refine .of_guard (fun ⟨ho, hk⟩ => ?_) (.next _)
    exact Bool.and_eq_true_iff.2 ⟨headerSelected_iff.2 ho, beq_iff_eq.2 hk⟩
  | header01 => exact .of_guard headerSelected_iff.2 (.next _)
  | header09 => exact .of_guard headerSelected_iff.2 (.next _)
  | evtCaptureComplete c => exact .of_guard beq_iff_eq.2 (.of_chan fun _ _ => .next _)
  | evtCaptureError c => exact .of_guard beq_iff_eq.2 (.of_chan fun _ _ => .next _)
  | cmdDisableCapture c => exact .of_chan fun _ _ => .next _
  | cmdResetAndRearm c => exact .of_chan fun _ _ => .next _
  | sinkByte c v =>
    exact .of_guard (fun ⟨hb, hs, hdue⟩ => byteDue_iff.2 ⟨(running_iff s).2 ⟨hb, hs⟩, hdue⟩) (.next _)
  | sinkSummary r =>
    exact .of_guard (fun h => beq_iff_eq.2 h.1) (.of_chan fun ch hc => .of_guard (fun h => h.2 ch hc) (.next _))
  | sinkError c => exact execSinkError_named c s
  | inFrameStart c => exact .of_chan fun ch hc => .of_guard (fun h => h ch hc) (.next _)
  | inFrameStartCapturing c => exact .of_chan fun ch hc => .of_guard (fun h => h ch hc) (.next _)
  | inFrameStartOverrun c => exact .of_chan fun ch hc => .of_guard (fun h => h ch hc) (.next _)
  | inCellWrite c j v => exact execInCellWrite_named c j v s
  | inCaptureDone c => exact execInCaptureDone_named c s
  | inCaptureError c => exact .of_chan fun _ _ => .next _
  | stepDispatchEntry => exact .of_guard (fun ⟨hb, hp⟩ => by simp [hb, hp]) (.next _)
  | stepSelect b => exact execStepSelect_named b s
  | stepDecode => exact execStepDecode_named s
  | stepDecodeDone => exact .of_guard (fun ⟨hb, hs⟩ => by simp [hb, hs]) (.next _)
  | stepFinish => exact .of_guard beq_iff_eq.2 (.of_chan fun _ _ => .next _)
  | stepClockTick => exact .next _
  | stepReset => exact .next _

/-- Settles O46: each kind of answer that is no next state carries its cause. -/
theorem everyStopIsNamed : Obligations.EveryStopIsNamed := by
  refine fun i s => ⟨fun f hf => ?_, fun r hr => ?_⟩
  · cases hf ▸ exec_namedAnswer i s with
    | noChannel hc => exact ⟨_, rfl, hc⟩
  · cases hr ▸ exec_namedAnswer i s with
    | duty h => exact .inl ⟨rfl, h⟩
    | notSelected h => exact .inr ⟨rfl, h⟩

end Sys2Proof.Machine
end

section
/-!
Reset (70_reset_and_hazards.md): the channels that the reset step and the reset state hold, and through them every register
(R300, R301, R302, R304).
-/

namespace Sys2Proof.Machine

variable {cfg : Config} {c : Nat}

/-- Each channel takes its reset values and its buffer becomes unspecified anew; no channel comes or goes (R300, R303). -/
theorem chan?_resetAll (s : State) (c : Nat) :
    (resetAll s).chan? c = (s.chan? c).map fun ch => { Channel.reset with draw := ch.draw + 1 } :=
  List.getElem?_map

theorem resetAll_channels_length (s : State) : (resetAll s).channels.length = s.channels.length :=
  List.length_map _

theorem chan?_resetWith (hc : c < cfg.nch) : (State.resetWith cfg).chan? c = some Channel.reset :=
  List.getElem?_replicate_of_lt hc

/-- Settles O43: outside the channels the step writes the reset state's own values, and each channel after it is one it has
reset. -/
theorem resetSetsEveryRegister : Obligations.ResetSetsEveryRegister := by
  refine fun s => ⟨resetAll s, execStepReset_next.2 rfl, resetAll_cfg s, resetAll_sink s, resetAll_commands s,
    resetAll_status s, resetAll_bstate s, resetAll_work s, resetAll_dch s, resetAll_gaprec s, resetAll_dec s,
    resetAll_channels_length s, fun c ch hc => ?_⟩
  rw [chan?_resetAll] at hc
  obtain ⟨ch', _, rfl⟩ := Option.map_eq_some_iff.1 hc
  exact ⟨rfl, rfl, rfl, rfl, rfl⟩

/-- Settles O44: every channel below NCH is `Channel.reset`, and neither its buffer nor the frame buffer lists an index. -/
theorem stateAfterReset : Obligations.StateAfterReset := by
  refine fun cfg => ⟨rfl, rfl, rfl, rfl, rfl, rfl, rfl, rfl, rfl, rfl, rfl, rfl, rfl, rfl, rfl, rfl, Memory.read_nil,
    fun c hc => ⟨Channel.reset, chan?_resetWith hc, ?_⟩⟩
  exact ⟨rfl, rfl, rfl, rfl, rfl, Memory.read_nil, rfl, rfl⟩

end Sys2Proof.Machine
end

section
/-!
The round trip between instructions and their words (30_encoding.md; log entry 7), format by format: the decoder reads back
the word that the encoder packs, and answers an instruction from its own word only.
-/

namespace Sys2Proof

variable {cfg : Config} {ctx : DecodeContext} {i : Instr} {w l h c : Nat}

/-! ## Guards and fields -/

/-- A decoder's guard rejects the word, or the word goes on. -/
theorem guard_ok {p : Prop} [Decidable p] {r : Reject} {x : Except Reject Instr} :
    (if p then .error r else x) = .ok i ↔ ¬p ∧ x = .ok i := by
  split <;> simp_all

theorem guard_ok_else {p : Prop} [Decidable p] {r : Reject} {x : Except Reject Instr} :
    (if p then x else .error r) = .ok i ↔ p ∧ x = .ok i := by
  split <;> simp_all

theorem unpackFields_two {m n a b top : Nat} (ha : a < 2 ^ m) (hb : b < 2 ^ n) :
    unpackFields [m, n] (packFields [(m, a), (n, b)] top) = [a, b, top] :=
  unpackFields_packFields [(m, a), (n, b)] top (by simp [ha, hb])

/-- Every field that is unpacked fits its width. -/
theorem zip_unpackFields_lt (ns : List Nat) (w : Nat) : ∀ f ∈ ns.zip (unpackFields ns w), f.2 < 2 ^ f.1 := by
  induction ns generalizing w with
  | nil => exact nofun
  | cons n ns ih => exact List.forall_mem_cons.2 ⟨Nat.mod_lt _ (Nat.two_pow_pos n), ih _⟩

theorem packFields_of_unpackFields {ns vs : List Nat} {top : Nat} (hu : unpackFields ns w = vs ++ [top]) :
    packFields (ns.zip vs) top = w := by
  obtain ⟨us, t, _, hut, hw⟩ := packFields_unpackFields ns w
  obtain ⟨rfl, ht⟩ := List.append_inj' (hu.symm.trans hut) rfl
  rwa [List.singleton_inj.1 ht]

theorem fields_of_unpackFields_two {m n a b top : Nat} (hu : unpackFields [m, n] w = [a, b, top]) :
    a < 2 ^ m ∧ b < 2 ^ n ∧ packFields [(m, a), (n, b)] top = w := by
  have hlt := hu ▸ zip_unpackFields_lt [m, n] w
  exact ⟨hlt (m, a) (by simp), hlt (n, b) (by simp), packFields_of_unpackFields (vs := [a, b]) hu⟩

/-- A word is a first field and the word above it. -/
theorem packFields_single_mod {n v : Nat} (hv : w % 2 ^ n = v) : packFields [(n, v)] (w / 2 ^ n) = w := by
  subst hv; exact Nat.mod_add_div w (2 ^ n)

theorem chstate_exists (hctx : ctx.wf = true) (hc : c < ctx.cfg.nch) : ∃ st, ctx.chstates[c]? = some st := by
  simp only [DecodeContext.wf, Bool.and_eq_true, decide_eq_true_eq] at hctx
  exact ⟨_, List.getElem?_eq_getElem (hctx.2 ▸ hc)⟩

/-- The word is the one in which the instruction, a well-formed one, is written. -/
def IsWordOf (ctx : DecodeContext) (i : Instr) (w : Word) : Prop := wellFormed ctx i = true ∧ encode ctx.cfg i = w

/-! ## Cells -/

theorem cellFits_iff : cellFits cfg l h = true ↔ l < 2 ^ cfg.tw ∧ h < 2 ^ cfg.tw := by simp [cellFits]

theorem cellFits_fields (cfg : Config) (w : Word) : cellFits cfg (cellLow cfg w) (cellHigh cfg w) = true :=
  cellFits_iff.2 ⟨cellLow_lt cfg w, cellHigh_lt cfg w⟩

theorem ne_zero_of_not_isSentinel (hz : isSentinel h = false) : h ≠ 0 := by rintro rfl; cases hz

/-- The row of a cell by its class (R103). -/
def cellRow (l h : Nat) : CellClass → Instr
  | .sentinel => .cellSentinel l
  | .data0 => .cellData0 l h
  | .data1 => .cellData1 l h

theorem decodeCell_eq (cfg : Config) (w : Word) :
    decodeCell cfg w = if w ≥ 2 ^ (2 * cfg.tw) then .error .wordTooWide
      else .ok (cellRow (cellLow cfg w) (cellHigh cfg w) (cellClass cfg (cellHigh cfg w))) := by
  unfold decodeCell
  cases cellClass cfg (cellHigh cfg w) <;> rfl

theorem decodeCell_cellWord (hf : cellFits cfg l h = true) :
    decodeCell cfg (cellWord cfg l h) = .ok (cellRow l h (cellClass cfg h)) := by
  obtain ⟨hl, hh⟩ := cellFits_iff.1 hf
  rw [decodeCell_eq, if_neg (Nat.not_le.2 (cellWord_lt hl hh)), cellLow_cellWord hl, cellHigh_cellWord hl hh]

theorem decodeAttribute_cellWord (hf : cellFits cfg l h = true) (hz : isSentinel h = false) :
    decodeAttribute cfg (cellWord cfg l h) =
      if isAnomalous cfg l h then .ok (.cellAnomalous l h) else .ok (.cellInwindow l h) := by
  obtain ⟨hl, hh⟩ := cellFits_iff.1 hf
  have hhigh := cellHigh_cellWord hl hh
  rw [decodeAttribute_eq (cellWord_lt hl hh) (hhigh.symm ▸ ne_zero_of_not_isSentinel hz), hhigh,
    cellLow_cellWord hl]

theorem decodePosition_cellWord (hf : cellFits cfg l h = true) (hz : isSentinel h = false) :
    decodePosition cfg (cellWord cfg l h) = .ok (.cellTurnaround l h) := by
  obtain ⟨hl, hh⟩ := cellFits_iff.1 hf
  rw [decodePosition, if_neg (Nat.not_le.2 (cellWord_lt hl hh)), cellLow_cellWord hl, cellHigh_cellWord hl hh, hz]
  rfl

theorem isWordOf_of_decodeCell (hd : decodeCell ctx.cfg w = .ok i) : IsWordOf ctx i w := by
  rw [decodeCell_eq, guard_ok] at hd
  obtain ⟨hw, hi⟩ := hd
  have hword := cellWord_fields (Nat.not_le.1 hw)
  have hfits := cellFits_fields ctx.cfg w
  cases hi
  cases hc : cellClass ctx.cfg (cellHigh ctx.cfg w) with
  | sentinel =>
    rw [(cellClass_sentinel _ _).1 hc] at hword hfits
    exact ⟨hfits, hword⟩
  | data0 => exact ⟨by simp [cellRow, wellFormed, hfits, hc], hword⟩
  | data1 => exact ⟨by simp [cellRow, wellFormed, hfits, hc], hword⟩

theorem isWordOf_of_decodeAttribute (hd : decodeAttribute ctx.cfg w = .ok i) : IsWordOf ctx i w := by
  simp only [decodeAttribute, guard_ok, Bool.not_eq_true] at hd
  obtain ⟨hw, hz, hi⟩ := hd
  have hword := cellWord_fields (Nat.not_le.1 hw)
  have hfits := cellFits_fields ctx.cfg w
  split at hi
  · next ha => cases hi; exact ⟨by simp [wellFormed, hfits, hz, ha], hword⟩
  · next ha => cases hi; exact ⟨by simp [wellFormed, hfits, hz, ha], hword⟩

theorem isWordOf_of_decodePosition (hd : decodePosition ctx.cfg w = .ok i) : IsWordOf ctx i w := by
  simp only [decodePosition, guard_ok, Bool.not_eq_true] at hd
  obtain ⟨hw, hz, hi⟩ := hd
  cases hi
  exact ⟨by simp [wellFormed, cellFits_fields, hz], cellWord_fields (Nat.not_le.1 hw)⟩

/-! ## Header bytes and status bits -/

theorem decodeHeader_toNat (hb : Byte) (h1 : hb ≠ 0x01) (h9 : hb ≠ 0x09) :
    decodeHeader cfg hb.toNat =
      if tableRead cfg hb = 0 then .ok (.headerDynamic hb) else .ok (.headerKnown hb) := by
  have hne1 : hb.toNat ≠ 0x01 := fun e => h1 (BitVec.eq_of_toNat_eq e)
  have hne9 : hb.toNat ≠ 0x09 := fun e => h9 (BitVec.eq_of_toNat_eq e)
  rw [decodeHeader, if_neg (Nat.not_le.2 hb.isLt), if_neg hne1, if_neg hne9, BitVec.ofNat_toNat, BitVec.setWidth_eq]

/-- A header whose entry is 0 is neither of the two documented ones (R33). -/
theorem documented_ne_of_dynamic {hb : Byte} (h0 : tableRead cfg hb = 0) : hb ≠ 0x01 ∧ hb ≠ 0x09 := by
  constructor <;> rintro rfl
  · rw [tableRead_01] at h0; cases h0
  · rw [tableRead_09] at h0; cases h0

theorem isWordOf_of_decodeHeader (hd : decodeHeader ctx.cfg w = .ok i) : IsWordOf ctx i w := by
  rw [decodeHeader, guard_ok] at hd
  obtain ⟨hw, hi⟩ := hd
  have hword : (BitVec.ofNat 8 w).toNat = w := Nat.mod_eq_of_lt (Nat.not_le.1 hw)
  split at hi
  · next h1 => cases hi; exact ⟨rfl, h1.symm⟩
  split at hi
  · next h9 => cases hi; exact ⟨rfl, h9.symm⟩
  split at hi
  · next h0 => cases hi; exact ⟨decide_eq_true h0, hword⟩
  · next h1 h9 h0 =>
    cases hi
    have hne1 : BitVec.ofNat 8 w ≠ 0x01 := fun e => h1 (hword.symm.trans (congrArg BitVec.toNat e))
    have hne9 : BitVec.ofNat 8 w ≠ 0x09 := fun e => h9 (hword.symm.trans (congrArg BitVec.toNat e))
    exact ⟨by rw [wellFormed, decide_eq_true hne1, decide_eq_true hne9, decide_eq_true h0]; rfl, hword⟩

theorem decodeStatusBit_ccBit (hc : c < cfg.nch) :
    decodeStatusBit cfg (ccBit c) = .ok (.evtCaptureComplete c) := by
  have hfit : ¬ccBit c ≥ 2 * cfg.nch := by rw [ccBit]; omega
  rw [decodeStatusBit, if_neg hfit, Machine.bitIsError_ccBit, Machine.bitChannel_ccBit]
  rfl

theorem decodeStatusBit_errBit (hc : c < cfg.nch) :
    decodeStatusBit cfg (errBit c) = .ok (.evtCaptureError c) := by
  have hfit : ¬errBit c ≥ 2 * cfg.nch := by rw [errBit]; omega
  rw [decodeStatusBit, if_neg hfit, Machine.bitIsError_errBit, Machine.bitChannel_errBit]
  rfl

theorem isWordOf_of_decodeStatusBit (hd : decodeStatusBit ctx.cfg w = .ok i) : IsWordOf ctx i w := by
  rw [decodeStatusBit, guard_ok] at hd
  obtain ⟨hw, hi⟩ := hd
  have hc : bitChannel w < ctx.cfg.nch := Nat.div_lt_of_lt_mul (Nat.not_le.1 hw)
  have hbit := bit_eq w
  split at hi
  · next he => cases hi; rw [if_pos he] at hbit; exact ⟨decide_eq_true hc, hbit.symm⟩
  · next he => cases hi; rw [if_neg he] at hbit; exact ⟨decide_eq_true hc, hbit.symm⟩

/-! ## Capture commands -/

theorem decodeCommand_packFields {op : Nat} (hop : op < 2 ^ 1) (hc : c < cfg.nch) :
    decodeCommand cfg (packFields [(1, op), (cfg.cw, c)] 0) =
      if op = 0 then .ok (.cmdDisableCapture c) else .ok (.cmdResetAndRearm c) := by
  rw [decodeCommand, unpackFields_two hop (channel_lt cfg hc)]
  exact if_neg (Nat.not_le.2 hc)

theorem isWordOf_of_decodeCommand (hd : decodeCommand ctx.cfg w = .ok i) : IsWordOf ctx i w := by
  unfold decodeCommand at hd
  split at hd
  · next op c top hu =>
    simp only [guard_ok, not_not] at hd
    obtain ⟨rfl, hc, hi⟩ := hd
    have hc : c < ctx.cfg.nch := Nat.not_le.1 hc
    obtain ⟨hop, _, hword⟩ := fields_of_unpackFields_two hu
    split at hi
    · next h0 => cases hi; subst h0; exact ⟨decide_eq_true hc, hword⟩
    · next h0 =>
      cases hi
      obtain rfl : op = 1 := by omega
      exact ⟨decide_eq_true hc, hword⟩
  · cases hd

/-! ## Sink records -/

theorem flagBit_lt (b : Bool) : flagBit b < 2 ^ 1 := by cases b <;> decide

theorem flagBit_beq_one (b : Bool) : (flagBit b == 1) = b := by cases b <;> rfl

theorem flagBit_of_beq_one {v : Nat} (hv : v < 2 ^ 1) : flagBit (v == 1) = v := by
  interval_cases v <;> rfl

theorem skipKind_code_lt (k : SkipKind) : k.code < 2 ^ 2 := by cases k <;> decide

theorem stop_code_lt (k : Stop) : k.code < 2 ^ 2 := by cases k <;> decide

theorem code_of_skipKind_ofCode {n : Nat} {k : SkipKind} (hk : SkipKind.ofCode n = some k) : k.code = n := by
  unfold SkipKind.ofCode at hk
  split at hk <;> cases hk <;> rfl

theorem code_of_stop_ofCode {n : Nat} {k : Stop} (hk : Stop.ofCode n = some k) : k.code = n := by
  unfold Stop.ofCode at hk
  split at hk <;> cases hk <;> rfl

/-- The fields of a SUMMARY record after its tag and before its bytes (R122). -/
def summaryFields (cfg : Config) (r : Summary) : List (Nat × Nat) :=
  [(cfg.cw, r.ch), (cfg.lw, r.len), (1, flagBit r.anomValid), (cfg.iw, r.anomalyIndex), (2, r.skipKind.code),
    (cfg.iw, r.skipIndex), (1, flagBit r.turnaroundTaken), (2, r.stop.code), (cfg.nw, r.nbits),
    (8, r.partialByte.toNat), (cfg.iw, r.cells), (cfg.gw, r.gap), (cfg.ow, r.overruns)]

theorem encodeSummary_eq (cfg : Config) (r : Summary) :
    encodeSummary cfg r = packFields [(2, 1)] (packFields (summaryFields cfg r) (packBytes r.bytes)) := rfl

theorem summary_wf_iff {r : Summary} :
    r.wf cfg = true ↔ r.ch < cfg.nch ∧ r.bytes.length = r.len ∧ r.len ≤ cfg.nbyte ∧ r.anomalyIndex < 2 ^ cfg.iw ∧
      r.skipIndex < 2 ^ cfg.iw ∧ r.nbits < 2 ^ cfg.nw ∧ r.cells < 2 ^ cfg.iw ∧ r.gap < 2 ^ cfg.gw ∧
      r.overruns < 2 ^ cfg.ow := by
  simp only [Summary.wf, Bool.and_eq_true, decide_eq_true_eq, and_assoc]

theorem summaryFields_lt {r : Summary} (hr : r.wf cfg = true) : ∀ f ∈ summaryFields cfg r, f.2 < 2 ^ f.1 := by
  obtain ⟨hch, _, hlen, hanom, hskip, hnbits, hcells, hgap, hovr⟩ := summary_wf_iff.1 hr
  have hlw : r.len < 2 ^ cfg.lw := lt_of_le_of_lt hlen (lt_two_pow_bitlen _)
  simp only [summaryFields, List.forall_mem_cons, List.not_mem_nil, false_imp_iff, implies_true, and_true]
  exact ⟨channel_lt cfg hch, hlw, flagBit_lt _, hanom, skipKind_code_lt _, hskip, flagBit_lt _, stop_code_lt _, hnbits,
    r.partialByte.isLt, hcells, hgap, hovr⟩

theorem decodeSummary_packFields {r : Summary} (hr : r.wf cfg = true) :
    decodeSummary cfg (packFields (summaryFields cfg r) (packBytes r.bytes)) = .ok (.sinkSummary r) := by
  have hu : unpackFields (summaryWidths cfg) _ = _ :=
    unpackFields_packFields (summaryFields cfg r) (packBytes r.bytes) (summaryFields_lt hr)
  obtain ⟨hch, hbytes, hlen, _⟩ := summary_wf_iff.1 hr
  rw [decodeSummary, hu]
  simp only [summaryFields, List.map_cons, List.map_nil, List.cons_append, List.nil_append]
  rw [if_neg (Nat.not_le.2 hch), if_neg (Nat.not_lt.2 hlen), skipKind_code, stop_code, ← hbytes, unpackBytes_packBytes]
  simp only [flagBit_beq_one, BitVec.ofNat_toNat, BitVec.setWidth_eq]
  rw [hbytes]

theorem isWordOf_of_decodeSummary (hd : decodeSummary ctx.cfg w = .ok i) : IsWordOf ctx i (packFields [(2, 1)] w) := by
  unfold decodeSummary at hd
  split at hd
  · next ch len anomValid anomalyIndex skipKind skipIndex taken stop nbits partialByte cells gap overruns top hu =>
    simp only [guard_ok] at hd
    obtain ⟨hch, hlen, hi⟩ := hd
    split at hi
    · next kind why bytes hkind hwhy hbytes =>
      cases hi
      have hlt := hu ▸ zip_unpackFields_lt (summaryWidths ctx.cfg) w
      have hword := packFields_of_unpackFields
        (vs := [ch, len, anomValid, anomalyIndex, skipKind, skipIndex, taken, stop, nbits, partialByte, cells, gap,
          overruns]) hu
      simp only [summaryWidths, List.zip_cons_cons, List.zip_nil_left, List.forall_mem_cons] at hlt
      obtain ⟨_, _, hvalid, hanom, _, hskip, htaken, _, hnbits, hpartial, hcells, hgap, hovr, _⟩ := hlt
      obtain ⟨hlength, htop⟩ := packBytes_unpackBytes hbytes
      refine ⟨summary_wf_iff.2 ?_, ?_⟩
      · exact ⟨Nat.not_le.1 hch, hlength, Nat.not_lt.1 hlen, hanom, hskip, hnbits, hcells, hgap, hovr⟩
      · rw [encode, encodeSummary_eq, ← hword]
        simp only [summaryFields, flagBit_of_beq_one hvalid, flagBit_of_beq_one htaken, code_of_skipKind_ofCode hkind,
          code_of_stop_ofCode hwhy, BitVec.toNat_ofNat, Nat.mod_eq_of_lt hpartial, htop]
        rfl
    · cases hi
    · cases hi
  · cases hd

theorem decodeRecord_byte {ch : Nat} (hch : ch < cfg.nch) (v : Byte) :
    decodeRecord cfg (encode cfg (.sinkByte ch v)) = .ok (.sinkByte ch v) := by
  rw [encode, packFields_cons, decodeRecord, add_mul_mod_two_pow (by decide), add_mul_div_two_pow (by decide),
    unpackFields_two (channel_lt cfg hch) v.isLt]
  simp only [ne_eq, not_true, if_false, if_neg (Nat.not_le.2 hch), BitVec.ofNat_toNat, BitVec.setWidth_eq]

theorem decodeRecord_summary {r : Summary} (hr : r.wf cfg = true) :
    decodeRecord cfg (encode cfg (.sinkSummary r)) = .ok (.sinkSummary r) := by
  rw [encode, encodeSummary_eq, packFields_cons, decodeRecord, add_mul_mod_two_pow (by decide),
    add_mul_div_two_pow (by decide)]
  exact decodeSummary_packFields hr

theorem decodeRecord_error {ch : Nat} (hch : ch < cfg.nch) :
    decodeRecord cfg (encode cfg (.sinkError ch)) = .ok (.sinkError ch) := by
  have hu : unpackFields [cfg.cw] (packFields [(cfg.cw, ch)] 0) = [ch, 0] :=
    unpackFields_packFields [(cfg.cw, ch)] 0 (by simp [channel_lt cfg hch])
  rw [encode, packFields_cons, decodeRecord, add_mul_mod_two_pow (by decide), add_mul_div_two_pow (by decide), hu]
  exact if_neg (Nat.not_le.2 hch)

theorem isWordOf_of_decodeRecord (hd : decodeRecord ctx.cfg w = .ok i) : IsWordOf ctx i w := by
  unfold decodeRecord at hd
  split at hd
  · next htag =>
    split at hd
    · next ch value top hu =>
      simp only [guard_ok, not_not] at hd
      obtain ⟨rfl, hch, hi⟩ := hd
      cases hi
      obtain ⟨_, hvalue, hrest⟩ := fields_of_unpackFields_two hu
      refine ⟨decide_eq_true (Nat.not_le.1 hch), ?_⟩
      rw [encode, BitVec.toNat_ofNat, Nat.mod_eq_of_lt hvalue, packFields_cons, hrest]
      exact packFields_single_mod htag
    · cases hd
  · next htag => exact packFields_single_mod htag ▸ isWordOf_of_decodeSummary hd
  · next htag =>
    split at hd
    · next ch top hu =>
      simp only [guard_ok, not_not] at hd
      obtain ⟨rfl, hch, hi⟩ := hd
      cases hi
      have hrest : packFields [(ctx.cfg.cw, ch)] 0 = w / 2 ^ 2 := packFields_of_unpackFields (vs := [ch]) hu
      refine ⟨decide_eq_true (Nat.not_le.1 hch), ?_⟩
      rw [encode, packFields_cons, hrest]
      exact packFields_single_mod htag
    · cases hd
  · cases hd

/-! ## Capture-source inputs -/

theorem decodeInput_event {kind : Nat} {st : ChState} (hkind : kind < 2 ^ 2) (hne : kind ≠ 1) (hc : c < ctx.cfg.nch)
    (hst : ctx.chstates[c]? = some st) :
    decodeInput ctx (packFields [(2, kind), (ctx.cfg.cw, c)] 0) =
      .ok (if kind = 0 then frameStartRow c st else if kind = 2 then .inCaptureDone c else .inCaptureError c) := by
  rw [decodeInput, unpackFields_two hkind (channel_lt ctx.cfg hc)]
  dsimp only
  rw [hst]
  dsimp only
  rw [if_neg (Nat.not_le.2 hc), if_neg hne, if_neg (not_not.2 rfl), apply_ite Except.ok, apply_ite Except.ok]

theorem decodeInput_frameStart {st : ChState}
    (hi : (decide (c < ctx.cfg.nch) && decide (ctx.chstates[c]? = some st)) = true) :
    decodeInput ctx (packFields [(2, 0), (ctx.cfg.cw, c)] 0) = .ok (frameStartRow c st) := by
  obtain ⟨hc, hst⟩ := Bool.and_eq_true_iff.1 hi
  exact decodeInput_event (by decide) (by decide) (of_decide_eq_true hc) (of_decide_eq_true hst)

theorem decodeInput_cellWrite {j v : Nat} (hctx : ctx.wf = true) (hc : c < ctx.cfg.nch) (hj : j < ctx.cfg.ncell)
    (hv : v < 2 ^ (2 * ctx.cfg.tw)) :
    decodeInput ctx (encode ctx.cfg (.inCellWrite c j v)) = .ok (.inCellWrite c j v) := by
  obtain ⟨st, hst⟩ := chstate_exists hctx hc
  have hword : encode ctx.cfg (.inCellWrite c j v) =
      packFields [(2, 1), (ctx.cfg.cw, c)] (packFields [(ctx.cfg.iw, j), (2 * ctx.cfg.tw, v)] 0) := rfl
  rw [hword, decodeInput, unpackFields_two (by decide) (channel_lt ctx.cfg hc)]
  dsimp only
  rw [hst]
  dsimp only
  rw [if_neg (Nat.not_le.2 hc), if_pos rfl, unpackFields_two (lt_trans hj (ncell_lt ctx.cfg)) hv]
  exact if_neg (Nat.not_le.2 hj)

/-- A frame start is the row of the capture state the channel has (R221, R222, R240). -/
theorem isWordOf_frameStartRow {st : ChState} (hc : c < ctx.cfg.nch) (hst : ctx.chstates[c]? = some st)
    (hw : packFields [(2, 0), (ctx.cfg.cw, c)] 0 = w) : IsWordOf ctx (frameStartRow c st) w := by
  cases st <;> exact ⟨by simp [frameStartRow, wellFormed, hc, hst], hw⟩

theorem isWordOf_of_decodeInput (hd : decodeInput ctx w = .ok i) : IsWordOf ctx i w := by
  unfold decodeInput at hd
  split at hd
  · next kind c rest hu =>
    obtain ⟨hkind, _, hword⟩ := fields_of_unpackFields_two hu
    split at hd
    · cases hd
    next st hst =>
    obtain ⟨hc, hd⟩ := guard_ok.1 hd
    have hc : c < ctx.cfg.nch := Nat.not_le.1 hc
    by_cases h1 : kind = 1
    · subst h1
      rw [if_pos rfl] at hd
      split at hd
      · next j v top hrest =>
        simp only [guard_ok, not_not] at hd
        obtain ⟨rfl, hj, hi⟩ := hd
        cases hi
        obtain ⟨_, hv, hcell⟩ := fields_of_unpackFields_two hrest
        exact ⟨by simp [wellFormed, hc, Nat.not_le.1 hj, hv], by rw [← hword, ← hcell]; rfl⟩
      · cases hd
    · simp only [if_neg h1, guard_ok, not_not] at hd
      obtain ⟨rfl, hi⟩ := hd
      split at hi
      · next h0 => cases hi; subst h0; exact isWordOf_frameStartRow hc hst hword
      split at hi
      · next h2 => cases hi; subst h2; exact ⟨decide_eq_true hc, hword⟩
      · next h0 h2 =>
        cases hi
        obtain rfl : kind = 3 := by omega
        exact ⟨decide_eq_true hc, hword⟩
  · cases hd

/-! ## The block's own steps -/

theorem decodeStep_packFields_select {b : Nat} (hb : b < 2 * cfg.nch) :
    decodeStep cfg (packFields [(3, 1)] b) = .ok (.stepSelect b) := by
  have hdiv : packFields [(3, 1)] b / 2 ^ 3 = b := add_mul_div_two_pow (by decide)
  have hmod : packFields [(3, 1)] b % 2 ^ 3 = 1 := add_mul_mod_two_pow (by decide)
  rw [decodeStep, hmod, hdiv]
  exact if_pos hb

/-- A step code with nothing above it is its step's word. -/
theorem isWordOf_of_stepCode {code : Nat} {j : Instr} {r : Reject} (hcode : w % 2 ^ 3 = code)
    (hd : (if w / 2 ^ 3 = 0 then .ok j else .error r) = Except.ok i) (hf : wellFormed ctx j = true)
    (he : encode ctx.cfg j = packFields [(3, code)] 0) : IsWordOf ctx i w := by
  obtain ⟨hrest, hi⟩ := guard_ok_else.1 hd
  cases hi
  exact ⟨hf, he.trans (hrest ▸ packFields_single_mod hcode)⟩

theorem isWordOf_of_decodeStep (hd : decodeStep ctx.cfg w = .ok i) : IsWordOf ctx i w := by
  unfold decodeStep at hd
  split at hd
  · next hcode => exact isWordOf_of_stepCode hcode hd rfl rfl
  · next hcode =>
    obtain ⟨hb, hi⟩ := guard_ok_else.1 hd
    cases hi
    exact ⟨decide_eq_true hb, packFields_single_mod hcode⟩
  · next hcode => exact isWordOf_of_stepCode hcode hd rfl rfl
  · next hcode => exact isWordOf_of_stepCode hcode hd rfl rfl
  · next hcode => exact isWordOf_of_stepCode hcode hd rfl rfl
  · cases hd

/-! ## The round trip -/

/-- Settles O2: the decoder of each format answers an instruction from its own word. -/
theorem encodeInvertsDecode : Obligations.EncodeInvertsDecode := by
  intro ctx fmt w i hd
  cases fmt with
  | cellWord => exact isWordOf_of_decodeCell hd
  | cellAttribute => exact isWordOf_of_decodeAttribute hd
  | cellPosition => exact isWordOf_of_decodePosition hd
  | headerByte => exact isWordOf_of_decodeHeader hd
  | statusBit => exact isWordOf_of_decodeStatusBit hd
  | captureCommand => exact isWordOf_of_decodeCommand hd
  | sinkRecord => exact isWordOf_of_decodeRecord hd
  | captureInput => exact isWordOf_of_decodeInput hd
  | internalStep => exact isWordOf_of_decodeStep hd
  | clockInput => obtain ⟨hw, hi⟩ := guard_ok_else.1 hd; cases hi; exact ⟨rfl, hw.symm⟩
  | resetInput => obtain ⟨hw, hi⟩ := guard_ok_else.1 hd; cases hi; exact ⟨rfl, hw.symm⟩

/-- Settles O1: the decoder of the row's format reads back the fields that the encoder packs, and what else makes the
instruction well-formed selects the row. -/
theorem decodeInvertsEncode : Obligations.DecodeInvertsEncode := by
  intro ctx i hctx hi
  cases i with
  | cellSentinel l => exact (decodeCell_cellWord hi).trans (by rw [(cellClass_sentinel _ _).2 rfl]; rfl)
  | cellData0 l h =>
    obtain ⟨hf, hc⟩ := Bool.and_eq_true_iff.1 hi
    exact (decodeCell_cellWord hf).trans (by rw [beq_iff_eq.1 hc]; rfl)
  | cellData1 l h =>
    obtain ⟨hf, hc⟩ := Bool.and_eq_true_iff.1 hi
    exact (decodeCell_cellWord hf).trans (by rw [beq_iff_eq.1 hc]; rfl)
  | cellAnomalous l h =>
    simp only [wellFormed, Bool.and_eq_true, Bool.not_eq_true'] at hi
    obtain ⟨⟨hf, hz⟩, ha⟩ := hi
    exact (decodeAttribute_cellWord hf hz).trans (if_pos ha)
  | cellInwindow l h =>
    simp only [wellFormed, Bool.and_eq_true, Bool.not_eq_true'] at hi
    obtain ⟨⟨hf, hz⟩, ha⟩ := hi
    exact (decodeAttribute_cellWord hf hz).trans (if_neg (Bool.eq_false_iff.1 ha))
  | cellTurnaround l h =>
    simp only [wellFormed, Bool.and_eq_true, Bool.not_eq_true'] at hi
    exact decodePosition_cellWord hi.1 hi.2
  | headerKnown hb =>
    simp only [wellFormed, Bool.and_eq_true, decide_eq_true_eq] at hi
    obtain ⟨⟨h1, h9⟩, hk⟩ := hi
    exact (decodeHeader_toNat hb h1 h9).trans (if_neg hk)
  | headerDynamic hb =>
    have h0 : tableRead ctx.cfg hb = 0 := of_decide_eq_true hi
    obtain ⟨h1, h9⟩ := documented_ne_of_dynamic h0
    exact (decodeHeader_toNat hb h1 h9).trans (if_pos h0)
  | header01 => rfl
  | header09 => rfl
  | evtCaptureComplete c => exact decodeStatusBit_ccBit (of_decide_eq_true hi)
  | evtCaptureError c => exact decodeStatusBit_errBit (of_decide_eq_true hi)
  | cmdDisableCapture c =>
    exact (decodeCommand_packFields (op := 0) (by decide) (of_decide_eq_true hi)).trans (if_pos rfl)
  | cmdResetAndRearm c =>
    exact (decodeCommand_packFields (op := 1) (by decide) (of_decide_eq_true hi)).trans (if_neg (by decide))
  | sinkByte ch v => exact decodeRecord_byte (of_decide_eq_true hi) v
  | sinkSummary r => exact decodeRecord_summary (cfg := ctx.cfg) (r := r) hi
  | sinkError ch => exact decodeRecord_error (of_decide_eq_true hi)
  | inFrameStart c => exact decodeInput_frameStart (st := .armed) hi
  | inFrameStartCapturing c => exact decodeInput_frameStart (st := .capturing) hi
  | inFrameStartOverrun c => exact decodeInput_frameStart (st := .complete) hi
  | inCellWrite c j v =>
    simp only [wellFormed, Bool.and_eq_true, decide_eq_true_eq] at hi
    obtain ⟨⟨hc, hj⟩, hv⟩ := hi
    exact decodeInput_cellWrite hctx hc hj hv
  | inCaptureDone c =>
    obtain ⟨st, hst⟩ := chstate_exists hctx (of_decide_eq_true hi)
    exact decodeInput_event (by decide) (by decide) (of_decide_eq_true hi) hst
  | inCaptureError c =>
    obtain ⟨st, hst⟩ := chstate_exists hctx (of_decide_eq_true hi)
    exact decodeInput_event (by decide) (by decide) (of_decide_eq_true hi) hst
  | stepDispatchEntry => exact show decodeStep ctx.cfg 0 = .ok .stepDispatchEntry from rfl
  | stepSelect b => exact decodeStep_packFields_select (of_decide_eq_true hi)
  | stepDecode => exact show decodeStep ctx.cfg 2 = .ok .stepDecode from rfl
  | stepDecodeDone => exact show decodeStep ctx.cfg 3 = .ok .stepDecodeDone from rfl
  | stepFinish => exact show decodeStep ctx.cfg 4 = .ok .stepFinish from rfl
  | stepClockTick => rfl
  | stepReset => rfl

/-! ## Written words -/

/-- Settles O5: the decoder evaluates each of the fourteen words. -/
theorem writtenWordsDecode : Obligations.WrittenWordsDecode := by
  unfold Obligations.WrittenWordsDecode
  decide

end Sys2Proof
end

section
/-!
The decoder step as the consolidated listing of 41_frame_decoder.md, section 9: the listing's lines up to the turnaround set
the decoder registers that S3 and S4 set, and its lines from there on are S5 to S8.
-/

namespace Sys2Proof.Machine

variable {s : State}

/-! ## The parts of the listing -/

/-- The listing's lines S3, on the decoder registers (R175-R177). -/
def Listing.header (s : State) : Decoder :=
  if s.dec.skipk = .pending ∧ s.dec.nb = 8 then
    let k := tableRead s.cfg (frameRead s 0)
    if k ≠ 0 then { s.dec with skipk := .resolved, skipidx := 8 * k.toNat } else { s.dec with skipk := .unresolved }
  else s.dec

/-- The listing's lines S4, on the decoder registers `d` and a cell that lasts `sum` ticks (R178-R180). -/
def Listing.anomaly (cfg : Config) (sum : Nat) (d : Decoder) : Decoder :=
  if sum < cfg.p - 1 ∨ sum > cfg.p + 1 then
    let d : Decoder := { d with anomv := true, anomidx := d.cur }
    if d.skipk = .unresolved then { d with skipk := .resolved, skipidx := d.cur } else d
  else d

/-- The listing's lines S5 and after, with `d` the decoder registers so far and `hi` the high ticks of the cell at `CUR`
(R182-R188). -/
def Listing.passOrAssemble (s : State) (d : Decoder) (hi : Nat) : State :=
  if d.skipk = .resolved ∧ d.cur = d.skipidx then
    let d : Decoder := { d with tataken := true, cur := d.cur + 1 }
    if d.cur ≥ s.cfg.ncell then { s with dec := { d with stop := .noSentinel } }
    else
      let w := cellRead s s.dch d.cur
      if Listing.high s.cfg w = 0 then { s with dec := { d with stop := .sentinel } }
      else Listing.assemble s d (Listing.high s.cfg w)
  else Listing.assemble s d hi

/-- The listing on a data cell is these parts in order. -/
theorem Listing.decodeStep_data {w : Word} (hcur : s.dec.cur < s.cfg.ncell) (hw : cellRead s s.dch s.dec.cur = w)
    (hz : cellHigh s.cfg w ≠ 0) :
    Listing.decodeStep s =
      Listing.passOrAssemble s (Listing.anomaly s.cfg (cellLow s.cfg w + cellHigh s.cfg w) (Listing.header s))
        (cellHigh s.cfg w) := by
  subst hw
  rw [Listing.decodeStep, if_neg (Nat.not_le.2 hcur)]
  exact if_neg hz

/-! ## The parts as sub-steps -/

theorem resolveHeader_dec_eq_listing (s : State) : (resolveHeader s).dec = Listing.header s := by
  rw [resolveHeader_dec_eq, Listing.header]
  split
  · exact (ite_not _ _ _).symm
  · rfl

theorem noteAnomaly_dec_eq_listing (l h : Nat) (s : State) :
    (noteAnomaly l h s).dec = Listing.anomaly s.cfg (l + h) s.dec := by
  simp only [noteAnomaly, isAnomalous_iff, Listing.anomaly]
  split
  · rw [recordAnomaly]
    dsimp only
    split <;> rfl
  · rfl

theorem resolveHeader_stop (s : State) : (resolveHeader s).dec.stop = s.dec.stop := by rw [resolveHeader_dec]

theorem noteAnomaly_stop (l h : Nat) (s : State) : (noteAnomaly l h s).dec.stop = s.dec.stop := by
  rw [noteAnomaly_dec]
  split <;> rfl

/-- Past the turnaround the buffer ends, or a sentinel ends the frame, or the frame goes on (R183, R184). -/
theorem passTurnaround_cases (s : State) :
    (s.dec.cur + 1 ≥ s.cfg.ncell ∧ passTurnaround s =
      { s with dec := { s.dec with tataken := true, cur := s.dec.cur + 1, stop := .noSentinel } }) ∨
    (¬s.dec.cur + 1 ≥ s.cfg.ncell ∧ cellHigh s.cfg (cellRead s s.dch (s.dec.cur + 1)) = 0 ∧ passTurnaround s =
      { s with dec := { s.dec with tataken := true, cur := s.dec.cur + 1, stop := .sentinel } }) ∨
    (¬s.dec.cur + 1 ≥ s.cfg.ncell ∧ cellHigh s.cfg (cellRead s s.dch (s.dec.cur + 1)) ≠ 0 ∧ passTurnaround s =
      { s with dec := { s.dec with tataken := true, cur := s.dec.cur + 1 } }) := by
  rw [passTurnaround_eq, passTurnaround_dec, passTurnaround_stop]
  split
  · next hend => exact .inl ⟨hend, rfl⟩
  split
  · next hend hz => exact .inr (.inl ⟨hend, hz, rfl⟩)
  · next hend hz => exact .inr (.inr ⟨hend, hz, rfl⟩)

/-- S5 to S8 after the header and the anomaly (R182-R188). -/
theorem runCell_eq_passOrAssemble (hs : s.dec.stop = .none) (l h : Nat) :
    runCell l h (bitOf s.cfg h) s = Listing.passOrAssemble s (noteAnomaly l h (resolveHeader s)).dec h := by
  have hu : noteAnomaly l h (resolveHeader s) = { s with dec := (noteAnomaly l h (resolveHeader s)).dec } := by
    rw [noteAnomaly_eq, resolveHeader_eq]
  have hstop : (noteAnomaly l h (resolveHeader s)).dec.stop = .none := by
    rw [noteAnomaly_stop, resolveHeader_stop, hs]
  unfold runCell
  generalize (noteAnomaly l h (resolveHeader s)).dec = d at hu hstop ⊢
  rw [hu, Listing.passOrAssemble]
  by_cases hat : d.skipk = .resolved ∧ d.cur = d.skipidx
  · rw [if_pos hat]
    refine (if_pos ((atTurnaround_iff _).2 hat)).trans ?_
    dsimp only
    rcases passTurnaround_cases { s with dec := d } with ⟨hend, e⟩ | ⟨hend, hz, e⟩ | ⟨hend, hz, e⟩ <;> rw [e]
    · rw [if_pos hend]
      exact if_neg nofun
    · rw [if_neg hend]
      exact (if_neg nofun).trans (if_pos hz).symm
    · rw [if_neg hend]
      exact (if_pos hstop).trans ((consumeBit_eq_assemble _ _).trans (if_neg hz).symm)
  · rw [if_neg hat]
    exact (if_neg (mt (atTurnaround_iff _).1 hat)).trans (consumeBit_eq_assemble { s with dec := d } h)

/-- Settles O14: the buffer end and the sentinel end the frame as in the listing's first lines, and a data cell is run
through its parts in order. -/
theorem decodeStepIsConsolidatedListing : Obligations.DecodeStepIsConsolidatedListing := by
  intro s ch hb hs hc
  by_cases hend : s.dec.cur ≥ s.cfg.ncell
  · rw [decodeStepStopsAtBufferEnd s hb hs hend, Listing.decodeStep, if_pos hend]
  have hcur : s.dec.cur < s.cfg.ncell := Nat.not_le.1 hend
  by_cases hz : cellHigh s.cfg (cellRead s s.dch s.dec.cur) = 0
  · rw [decodeStepStopsAtSentinel s ch hb hs hcur hc hz, Listing.decodeStep, if_neg hend]
    exact congrArg _ (if_pos hz).symm
  · rw [exec_stepDecode_data ⟨hb, hs, hcur⟩ hc rfl hz, runCell_eq_passOrAssemble hs, noteAnomaly_dec_eq_listing,
      resolveHeader_dec_eq_listing, resolveHeader_cfg, Listing.decodeStep_data hcur rfl hz]

end Sys2Proof.Machine
end
